-- ==== Sys2Proof/Word.lean ====
section
/-! DEFINITION. The two word formats, the operand word on a port, and the raw word of the operation table.
Bit 0 is the least significant bit of every word, and all words are unsigned (00_scope.md R11).
Ports carry bit patterns, never values of a floating-point type (10_state.md R32, 70_reset_and_hazards.md R188). -/

namespace Sys2Proof

/-- Format F32, a binary32 word: sign 31, exponent 30:23, significand 22:0 (30_encoding.md R60). -/
abbrev F32 := BitVec 32

/-- Format F16, a binary16 word: sign 15, exponent 14:10, significand 9:0 (30_encoding.md R61). -/
abbrev F16 := BitVec 16

/-- A word on one of the two input ports of the codec (10_state.md R24). A port carries the whole word, every bit of it
0 or 1 (70_reset_and_hazards.md R181). -/
inductive PortWord where
  /-- a word on `f32_in`, an operand of PACK -/
  | f32In (fb : F32)
  /-- a word on `f16_in`, an operand of UNPACK -/
  | f16In (h : F16)
  deriving DecidableEq, Repr

/-- A word as the operation table numbers it: how many bits, and the unsigned integer they make. It has no byte order
(20_memory.md R44). -/
structure RawWord where
  nbits : Nat
  value : Nat
  deriving DecidableEq, Repr

end Sys2Proof
end

