-- ==== Sys2Proof/Machine/Operands.lean ====
section
/-! DEFINITION. The fields of the two word formats and the two fields each operation cuts from its operand
(30_encoding.md sections 1 and 2). There is no other operand form: no immediate, no register, no addressing mode. -/

namespace Sys2Proof.Machine

/-! ### The three fields of each format -/

/-- The sign of a binary32 word, bit 31 (30_encoding.md R60). -/
def f32Sign (fb : F32) : BitVec 1 := fb.extractLsb' 31 1

/-- The exponent field of a binary32 word, bits 30:23, biased by 127 (30_encoding.md R60). -/
def f32Exp (fb : F32) : BitVec 8 := fb.extractLsb' 23 8

/-- The significand field of a binary32 word, bits 22:0 (30_encoding.md R60). It is also the significand `sig` of PACK
(30_encoding.md R63): not extended, not scaled, with no implicit leading one. -/
def f32Sig (fb : F32) : BitVec 23 := fb.extractLsb' 0 23

/-- The sign of a binary16 word, bit 15 (30_encoding.md R61). -/
def f16Sign (h : F16) : BitVec 1 := h.extractLsb' 15 1

/-- The exponent field of a binary16 word, bits 14:10, biased by 15 (30_encoding.md R61). -/
def f16Exp (h : F16) : BitVec 5 := h.extractLsb' 10 5

/-- The significand field of a binary16 word, bits 9:0 (30_encoding.md R61). It is also the significand `sig` of UNPACK
(30_encoding.md R65). -/
def f16Sig (h : F16) : BitVec 10 := h.extractLsb' 0 10

/-- The binary32 word of three fields (30_encoding.md R60). -/
def joinF32 (s : BitVec 1) (E : BitVec 8) (m : BitVec 23) : F32 := s ++ E ++ m

/-- The binary16 word of three fields (30_encoding.md R61). -/
def joinF16 (s : BitVec 1) (E : BitVec 5) (m : BitVec 10) : F16 := s ++ E ++ m

/-! ### The selectors -/

/-- The selector of PACK, `exp = fb[31:23]`: sign and exponent field together (30_encoding.md R62). -/
def packSelector (fb : F32) : BitVec 9 := fb.extractLsb' 23 9

/-- The selector of UNPACK, `exp = h[15:10]`: sign and exponent field together (30_encoding.md R64). -/
def unpackSelector (h : F16) : BitVec 6 := h.extractLsb' 10 6

end Sys2Proof.Machine
end

