-- ==== Sys2Proof/Syntax.lean ====
section
/-! DEFINITION. The operations of the block: the two-constructor type of 30_encoding.md R67, one constructor for each row
of spec/opcode_table.json. -/

namespace Sys2Proof

/-- An operation with its one operand word (30_encoding.md R67, 92_eei_decisions.md D4). -/
inductive Instr where
  /-- `PACK`: binary32 word to binary16 word (41_pack.md R100) -/
  | pack (fb : F32)
  /-- `UNPACK`: binary16 word to binary32 word (42_unpack.md R120) -/
  | unpack (h : F16)
  deriving DecidableEq, Repr

/-- The width of the operand: the one fixed length its words have (30_encoding.md R69). -/
def Instr.operandWidth : Instr → Nat
  | .pack _ => 32
  | .unpack _ => 16

/-- The width of the result word (30_encoding.md R72). -/
def Instr.resultWidth : Instr → Nat
  | .pack _ => 16
  | .unpack _ => 32

end Sys2Proof
end

