-- ==== Sys2Proof/WellFormed.lean ====
section
/-! DEFINITION. What is checked before a word is an operand. An operation carries a word of its format's exact width, and
every such word is legal (30_encoding.md R68), so an operation needs no check of its own; a raw word of the operation table
must be a whole word of one of the two formats. (The checks on a line of the notation of R71 stand beside that notation, in
Sys2Proof/Machine/Network.lean.) -/

namespace Sys2Proof

/-- No operand word is illegal or reserved (30_encoding.md R68): every operation is well formed. -/
def Instr.wf : Instr → Bool
  | .pack _ => true
  | .unpack _ => true

/-- The word has the operand width of one of the two operations: 32 bits for PACK or 16 bits for UNPACK
(30_encoding.md R69, 92_eei_decisions.md D4). -/
def RawWord.widthOk (r : RawWord) : Bool := r.nbits == 32 || r.nbits == 16

/-- The value is made of the word's own bits. -/
def RawWord.valueOk (r : RawWord) : Bool := decide (r.value < 2 ^ r.nbits)

/-- A raw word is an operand word of the block. -/
def RawWord.wf (r : RawWord) : Bool := r.widthOk && r.valueOk

end Sys2Proof
end

