-- ==== Sys2Proof/Decode.lean ====
section
/-! DEFINITION. Decoding and encoding. The block's decoder is the choice of port and nothing else (30_encoding.md R67), and
it never answers "invalid" (R68): `decode`. The operation table numbers a row's bits in one raw word and tells the rows apart
by operand width (92_eei_decisions.md D4): `portWordOf` takes a raw word to the port whose width it has, and rejects by name a
raw word that is no word of either port. The encoder comes after, written from the format strings of the table. -/

namespace Sys2Proof

open Sys2Proof.Machine

/-- The operation a word on a port is an operand of (30_encoding.md R67). -/
def decode : PortWord → Instr
  | .f32In fb => .pack fb
  | .f16In h => .unpack h

/-- Why a raw word is no operand word of the block. -/
inductive DecodeError where
  /-- no input port has this width (10_state.md R24) -/
  | noPortOfWidth (nbits : Nat)
  /-- the value has a set bit above the word's width -/
  | bitsAboveWidth (nbits value : Nat)
  deriving DecidableEq, Repr

/-- Bits `lo + w - 1` down to `lo` of the unsigned integer `value` (00_scope.md R12). -/
def bitField (value lo w : Nat) : BitVec w := BitVec.ofNat w (value >>> lo)

/-- The port word of a raw word, its fields read where the table's row has them: `seeeeeeeemmm…` for 32 bits
(30_encoding.md R60), `seeeeemmm…` for 16 bits (R61). -/
def portWordOf (r : RawWord) : Except DecodeError PortWord :=
  if !r.widthOk then .error (.noPortOfWidth r.nbits)
  else if !r.valueOk then .error (.bitsAboveWidth r.nbits r.value)
  else if r.nbits = 32 then
    .ok (.f32In (joinF32 (bitField r.value 31 1) (bitField r.value 23 8) (bitField r.value 0 23)))
  else
    .ok (.f16In (joinF16 (bitField r.value 15 1) (bitField r.value 10 5) (bitField r.value 0 10)))

/-- The operation of a raw word, or the name of what is wrong with it. -/
def decodeRaw (r : RawWord) : Except DecodeError Instr :=
  match portWordOf r with
  | .ok p => .ok (decode p)
  | .error e => .error e

/-- The operation the decoder reads from an instruction of `nbits` bits `w`, numbered as spec/opcode_table.json numbers
them. Both rows have mask 0 and match 0: the width alone tells them apart (92_eei_decisions.md D4). -/
def decodeTableWord (nbits w : Nat) : Option Instr :=
  match decodeRaw { nbits := nbits, value := w } with
  | .ok i => some i
  | .error _ => none

/-! ### The encoder -/

/-- The port word an operation is asked for with (30_encoding.md R67). -/
def portOf : Instr → PortWord
  | .pack fb => .f32In fb
  | .unpack h => .f16In h

/-- The raw word of an operation: each field of its operand at the place the table's format string gives it. -/
def encode : Instr → RawWord
  | .pack fb =>
    { nbits := 32
      value := (f32Sign fb).toNat * 2 ^ 31 + (f32Exp fb).toNat * 2 ^ 23 + (f32Sig fb).toNat }
  | .unpack h =>
    { nbits := 16
      value := (f16Sign h).toNat * 2 ^ 15 + (f16Exp h).toNat * 2 ^ 10 + (f16Sig h).toNat }

end Sys2Proof
end

