-- ==== Sys2Proof/Machine/State.lean ====
section
/-! DEFINITION. What the model holds between two steps, why a step can stop, and the state after reset.
The block has no mutable architectural state (10_state.md R20). The four ports of the codec (R24) are held as data because
the pipeline's machine is a function from state to state, and so are the operand words the host has yet to drive (log 1). The
five tables are constants and stand in Sys2Proof/Machine/Tables.lean (10_state.md R29), not here. -/

namespace Sys2Proof.Machine

/-- Why a step faults: for no reason at all. "The set of exception causes is empty" (60_exceptions.md R160), and neither
stuck states nor hangs exist (R166), so the type has no constructor, and that a step faults cannot be written down. -/
inductive Fault where
  deriving DecidableEq, Repr

/-- Why a step has no meaning. -/
inductive Refusal where
  /-- The instruction has no meaning yet. The pipeline's interface asks for this constructor; nothing in this model
  answers with it (no operand form is left out, 60_exceptions.md R166). Safe: a step that stops proves nothing. -/
  | notModelled (mnemonic : String)
  deriving DecidableEq, Repr

/-- The four ports of the codec and the operand words the host is going to drive. -/
structure State where
  /-- the word on input port `f32_in` of fp32_to_fp16_converter (10_state.md R24) -/
  f32In : F32
  /-- the word on output port `f16_out` of fp32_to_fp16_converter (10_state.md R24) -/
  f16Out : F16
  /-- the word on input port `f16_in` of fp16_to_fp32_converter (10_state.md R24) -/
  f16In : F16
  /-- the word on output port `f32_out` of fp16_to_fp32_converter (10_state.md R24) -/
  f32Out : F32
  /-- the operand words the host drives next, oldest first. The model's own field (log 1): the host may drive any word on
  either input port, at any time, in any order (60_exceptions.md R175). -/
  pending : List PortWord
  deriving DecidableEq, Repr

/-- The codec at power-on. There is no reset input and nothing for a reset to set (10_state.md R34). The words on the input
ports are a DESIGN CHOICE (log 2); the outputs are then what R34 gives for them: `f32_in = 0x00000000` gives
`f16_out = 0x0000`, and `f16_in = 0x0000` gives `f32_out = 0x00000000`. -/
def State.reset : State where
  f32In := 0x00000000#32
  f16Out := 0x0000#16
  f16In := 0x0000#16
  f32Out := 0x00000000#32
  pending := []

end Sys2Proof.Machine
end

