-- ==== Sys2Proof/Machine/Ops.lean ====
section
/-! DEFINITION. The named operations on the ports and on the host's pending words. There is no memory and no register
(20_memory.md R40, 10_state.md R21). Taking an exception and returning from one do not exist: "there is no trap mechanism"
(60_exceptions.md R164) and "there is no return operation and nothing to restore" (R165). -/

namespace Sys2Proof.Machine

/-- `f32_in` carries `fb` and `f16_out <- out` (00_scope.md R12); the other converter's ports are untouched, because the
converters share nothing but constants (10_state.md R27). -/
def State.onF32 (s : State) (fb : F32) (out : F16) : State := { s with f32In := fb, f16Out := out }

/-- `f16_in` carries `h` and `f32_out <- out` (00_scope.md R12); the other converter's ports are untouched
(10_state.md R27). -/
def State.onF16 (s : State) (h : F16) (out : F32) : State := { s with f16In := h, f32Out := out }

/-- The host is going to drive these words next, before those that were pending (log 1). -/
def State.driveNext (s : State) (ws : List PortWord) : State := { s with pending := ws ++ s.pending }

/-- Take the host's next word, if there is one. -/
def State.takePending (s : State) : Option (PortWord × State) :=
  match s.pending with
  | [] => none
  | w :: rest => some (w, { s with pending := rest })

end Sys2Proof.Machine
end

