-- ==== Sys2Proof/Machine/Tables.lean ====
section
/-! DEFINITION. The five constant lookup tables, each its index→value function (40_lookup_tables.md R80). The index types are
exact, so a lookup outside a table cannot be written down (20_memory.md R45, R46). The elements are held in the document's
container widths (00_scope.md R9). Nothing writes a table (20_memory.md R43). -/

namespace Sys2Proof.Machine

/-! ### `MANT` -/

/-- The loop of `renormalize` (40_lookup_tables.md R82): while bit 23 of `m` is clear, take `0x00800000` from the exponent
accumulator and shift `m` left by one. It runs at most ten times, so ten is fuel enough (log 6). -/
def renormLoop : Nat → BitVec 32 → BitVec 32 → BitVec 32 × BitVec 32
  | 0, m, acc => (m, acc)
  | fuel + 1, m, acc =>
    if m.getLsbD 23 then (m, acc) else renormLoop fuel (m <<< 1) (acc - 0x00800000#32)

/-- `renormalize(i)` for `1 <= i <= 1023` (40_lookup_tables.md R82). -/
def renormalize (i : Nat) : BitVec 32 :=
  let (m, acc) := renormLoop 10 (BitVec.ofNat 32 i <<< 13) 0#32
  (m &&& ~~~(0x00800000#32)) + (acc + 0x38800000#32)

/-- `MANT[i]`, the Mantissa Table (40_lookup_tables.md R81). -/
def MANT (i : Fin 2048) : BitVec 32 :=
  if i.val = 0 then 0#32
  else if i.val ≤ 1023 then renormalize i.val
  else 0x38000000#32 + (BitVec.ofNat 32 (i.val - 1024) <<< 13)

/-! ### `OFFS` and `EXPT` -/

/-- `OFFS[i]`, the Offset Table (40_lookup_tables.md R83). -/
def OFFS (i : Fin 64) : BitVec 16 :=
  if i.val = 0 ∨ i.val = 32 then 0#16 else 1024#16

/-- `EXPT[i]`, the Exponent Table (40_lookup_tables.md R84). -/
def EXPT (i : Fin 64) : BitVec 32 :=
  if i.val = 0 then 0x00000000#32
  else if i.val ≤ 30 then BitVec.ofNat 32 i.val <<< 23
  else if i.val = 31 then 0x47800000#32
  else if i.val = 32 then 0x80000000#32
  else if i.val ≤ 62 then 0x80000000#32 + (BitVec.ofNat 32 (i.val - 32) <<< 23)
  else 0xC7800000#32

/-! ### `BASE` and `SHIFT` -/

/-- The unbiased exponent `e` of a PACK selector, a mathematical integer from -127 to 128: the selector less 127, or less
383 in the negative half (40_lookup_tables.md R85). -/
def unbiasedExp (i : Fin 512) : Int := (i.val : Int) - (if i.val < 256 then 127 else 383)

/-- The sign bit `S` of a Base element (40_lookup_tables.md R86). -/
def baseSign (i : Fin 512) : BitVec 16 := if i.val < 256 then 0x0000#16 else 0x8000#16

/-- `BASE[i]`, the Base Table (40_lookup_tables.md R86). -/
def BASE (i : Fin 512) : BitVec 16 :=
  let e := unbiasedExp i
  if e < -24 then baseSign i
  else if e < -14 then (0x0400#16 >>> (-e - 14).toNat) ||| baseSign i
  else if e ≤ 15 then (BitVec.ofInt 16 (e + 15) <<< 10) ||| baseSign i
  else 0x7C00#16 ||| baseSign i

/-- `SHIFT[i]`, the Shift Table (40_lookup_tables.md R87). At `e = 15` it is 13: 90_conflicts.md C1 reads the document's
fourth range as `15 < e < 128`. -/
def SHIFT (i : Fin 512) : BitVec 16 :=
  let e := unbiasedExp i
  if e < -24 then 24#16
  else if e < -14 then BitVec.ofInt 16 (-e - 1)
  else if e ≤ 15 then 13#16
  else if e < 128 then 24#16
  else 13#16

/-! ### The five address spaces -/

/-- The five table memories, each its own address space (20_memory.md R41). -/
inductive Table where
  | mant
  | offs
  | expt
  | base
  | shift
  deriving DecidableEq, Repr

/-- The length of a table (20_memory.md R41). -/
def Table.length : Table → Nat
  | .mant => 2048
  | .offs => 64
  | .expt => 64
  | .base => 512
  | .shift => 512

/-- The element width of a table (20_memory.md R41). -/
def Table.width : Table → Nat
  | .mant => 32
  | .offs => 16
  | .expt => 32
  | .base => 16
  | .shift => 16

/-- A table read `T[i]`: the constant element, with no side effect (20_memory.md R42). -/
def Table.read : (t : Table) → Fin t.length → BitVec t.width
  | .mant, i => MANT i
  | .offs, i => OFFS i
  | .expt, i => EXPT i
  | .base, i => BASE i
  | .shift, i => SHIFT i

/-- `renormalize` without its loop (40_lookup_tables.md R89, which the spec derives from R82): with `p` the place of the
highest set bit of `i`, exponent field `103 + p` and the bits below the leading one, left-aligned in 23 bits. -/
def renormalizeClosed (i : Nat) : BitVec 32 :=
  BitVec.ofNat 32 ((103 + i.log2) * 2 ^ 23 + (i - 2 ^ i.log2) * 2 ^ (23 - i.log2))

end Sys2Proof.Machine
end

