-- ==== Sys2Proof/Machine/Pack.lean ====
section
/-! DEFINITION. PACK, the operation of fp32_to_fp16_converter (41_pack.md). -/

namespace Sys2Proof.Machine

/-- The index of PACK's two reads (20_memory.md R46). -/
def packIndex (fb : F32) : Fin 512 := (packSelector fb).toFin

/-- The sum of 41_pack.md R100 as an unbounded unsigned integer: `BASE[exp] + (sig >> SHIFT[exp])`. The right shift is
logical (00_scope.md R12). -/
def packSum (fb : F32) : Nat :=
  (BASE (packIndex fb)).toNat + (f32Sig fb).toNat >>> (SHIFT (packIndex fb)).toNat

/-- `PACK(fb)`: the low 16 bits of the sum (41_pack.md R100). -/
def PACK (fb : F32) : F16 := BitVec.ofNat 16 (packSum fb)

/-- The meaning of PACK: `f32_in` carries the operand and `f16_out` its result (41_pack.md R100). It writes no flag (R101),
raises nothing (R102) and reads no state but the operand (10_state.md R20). -/
def execPack (fb : F32) (s : State) : Host.Outcome State Fault Refusal :=
  .next (s.onF32 fb (PACK fb))

/-- PACK with no table (41_pack.md R105, which the spec derives from R100, R86 and R87). -/
def packDirect (fb : F32) : F16 :=
  let s := f32Sign fb
  let E := (f32Exp fb).toNat
  let m := f32Sig fb
  if E ≤ 102 then joinF16 s 0#5 0#10
  else if E ≤ 112 then joinF16 s 0#5 (((1#1 ++ m) >>> (126 - E)).extractLsb' 0 10)
  else if E ≤ 142 then joinF16 s (BitVec.ofNat 5 (E - 112)) (m.extractLsb' 13 10)
  else if E ≤ 254 then joinF16 s 31#5 0#10
  else joinF16 s 31#5 (m.extractLsb' 13 10)

end Sys2Proof.Machine
end

