-- ==== Sys2Proof/Machine/Unpack.lean ====
section
/-! DEFINITION. UNPACK, the operation of fp16_to_fp32_converter (42_unpack.md). -/

namespace Sys2Proof.Machine

/-- The index of UNPACK's reads of `OFFS` and `EXPT` (20_memory.md R46). -/
def unpackIndex (h : F16) : Fin 64 := (unpackSelector h).toFin

/-- `OFFS` holds 0 and 1024 only, so the sum with a 10-bit significand stays inside `MANT` (20_memory.md R46). -/
theorem offs_add_sig_lt (i : Fin 64) (m : BitVec 10) : (OFFS i).toNat + m.toNat < 2048 := by
  have hm := m.isLt
  unfold OFFS
  split <;> simp <;> omega

/-- The index of UNPACK's read of `MANT`, `OFFS[exp] + sig` (42_unpack.md R120, 20_memory.md R46). -/
def mantIndex (h : F16) : Fin 2048 :=
  ⟨(OFFS (unpackIndex h)).toNat + (f16Sig h).toNat, offs_add_sig_lt _ _⟩

/-- `UNPACK(h)`: the 32-bit sum of the two elements (42_unpack.md R120). -/
def UNPACK (h : F16) : F32 := MANT (mantIndex h) + EXPT (unpackIndex h)

/-- The meaning of UNPACK: `f16_in` carries the operand and `f32_out` its result (42_unpack.md R120). It writes no flag
(R121), raises nothing (R122) and reads no state but the operand (10_state.md R20). -/
def execUnpack (h : F16) (s : State) : Host.Outcome State Fault Refusal :=
  .next (s.onF16 h (UNPACK h))

/-- UNPACK with no table (42_unpack.md R125, which the spec derives from R120, R89, R83 and R84); `p` is the place of the
highest set bit of `m`. -/
def unpackDirect (h : F16) : F32 :=
  let s := f16Sign h
  let E := (f16Exp h).toNat
  let m := f16Sig h
  let p := m.toNat.log2
  if E = 0 then
    if m = 0#10 then joinF32 s 0#8 0#23
    else joinF32 s (BitVec.ofNat 8 (103 + p)) (BitVec.ofNat 23 ((m.toNat - 2 ^ p) <<< (23 - p)))
  else if E ≤ 30 then joinF32 s (BitVec.ofNat 8 (E + 112)) (m ++ 0#13)
  else joinF32 s 255#8 (m ++ 0#13)

end Sys2Proof.Machine
end

