-- ==== Sys2Proof/Machine/Dispatch.lean ====
section
/-! DEFINITION. One arm for each operation (30_encoding.md R67). -/

namespace Sys2Proof.Machine

def exec (i : Instr) (s : State) : Host.Outcome State Fault Refusal :=
  match i with
  | .pack fb => Sys2Proof.Machine.execPack fb s
  | .unpack h => Sys2Proof.Machine.execUnpack h s

end Sys2Proof.Machine
end

