-- ==== Sys2Proof/Machine/Step.lean ====
section
/-! DEFINITION. One step: the host drives its next pending word on the port the word is for, and the converter behind that
port delivers its result (60_exceptions.md R175, 10_state.md R27). The block fetches nothing and has no program counter
(10_state.md R22): the pending words are the host's (log 1). -/

namespace Sys2Proof.Machine

/-- With a word pending, the operation of its port runs on it. With none, the host drives nothing new and nothing changes
(log 1). -/
def step (s : State) : Host.Outcome State Fault Refusal :=
  match s.takePending with
  | none => .next s
  | some (w, s') => exec (decode w) s'

/-- The state in which the host drives next the operand word `w` of `nbits` bits, on the port of that width. A word that is
no operand word of the block changes nothing. -/
def State.withFetchWord (s : State) (nbits w : Nat) : State :=
  match portWordOf { nbits := nbits, value := w } with
  | .ok p => s.driveNext [p]
  | .error _ => s

end Sys2Proof.Machine
end

