-- ==== Sys2Proof/Machine/Codec.lean ====
section
/-! DEFINITION. The codec seen from outside an evaluation: the table reads an operation makes, its result, and the moment in
which both converters are driven. -/

namespace Sys2Proof.Machine

/-- One table read: a table and an index inside it (20_memory.md R41, R45). -/
structure TableRead where
  table : Table
  index : Fin table.length
  deriving DecidableEq, Repr

/-- The element a read returns, as an unsigned integer (20_memory.md R42). -/
def TableRead.element (r : TableRead) : Nat := (r.table.read r.index).toNat

/-- The reads of an operation (20_memory.md R47): PACK reads `BASE` and `SHIFT` at one index; UNPACK reads `OFFS` and `EXPT`
at one index, then `MANT` at an index that depends on the `OFFS` element. -/
def tableReads : Instr → List TableRead
  | .pack fb => [⟨.base, packIndex fb⟩, ⟨.shift, packIndex fb⟩]
  | .unpack h => [⟨.offs, unpackIndex h⟩, ⟨.expt, unpackIndex h⟩, ⟨.mant, mantIndex h⟩]

/-- A word of either format. -/
inductive Value where
  | f16 (w : F16)
  | f32 (w : F32)
  deriving DecidableEq, Repr

/-- The result word of an operation (30_encoding.md R72). -/
def opResult : Instr → Value
  | .pack fb => .f16 (PACK fb)
  | .unpack h => .f32 (UNPACK h)

/-- The word on the output port of the converter that runs the operation (10_state.md R24). -/
def State.resultPort (s : State) : Instr → Value
  | .pack _ => .f16 s.f16Out
  | .unpack _ => .f32 s.f32Out

/-- The moment in which the host drives both input ports: each converter delivers its own result (60_exceptions.md R172). -/
def driveBoth (fb : F32) (h : F16) (s : State) : State := (s.onF32 fb (PACK fb)).onF16 h (UNPACK h)

/-- The last word of a list that is for `f32_in`, or `d` if none is. -/
def lastF32In : List PortWord → F32 → F32
  | [], d => d
  | .f32In fb :: ws, _ => lastF32In ws fb
  | .f16In _ :: ws, d => lastF32In ws d

/-- The last word of a list that is for `f16_in`, or `d` if none is. -/
def lastF16In : List PortWord → F16 → F16
  | [], d => d
  | .f32In _ :: ws, d => lastF16In ws d
  | .f16In h :: ws, _ => lastF16In ws h

end Sys2Proof.Machine
end

