-- ==== Sys2Proof/Machine/Value.lean ====
section
/-! DEFINITION. The class and the value of a word (00_scope.md R16). The block never computes with a value (R8): these say
what its result words mean. The value formula is marked "from general knowledge, not in source" by R16 itself (log 7). -/

namespace Sys2Proof.Machine

/-- The five value classes of 00_scope.md R16. -/
inductive WordClass where
  | zero
  | subnormal
  | normal
  | infinity
  | nan
  deriving DecidableEq, Repr

/-- The class of a word with exponent field `E`, largest exponent field `maxE`, and significand field `m`
(00_scope.md R16). -/
def classOf (E maxE m : Nat) : WordClass :=
  if E = 0 then (if m = 0 then .zero else .subnormal)
  else if E = maxE then (if m = 0 then .infinity else .nan)
  else .normal

/-- The class of a binary32 word (00_scope.md R16). -/
def class32 (fb : F32) : WordClass := classOf (f32Exp fb).toNat 255 (f32Sig fb).toNat

/-- The class of a binary16 word (00_scope.md R16). -/
def class16 (h : F16) : WordClass := classOf (f16Exp h).toNat 31 (f16Sig h).toNat

/-- `(-1)^s * 2^(E-bias) * (1 + m/2^p)` for a normal word and `(-1)^s * 2^(1-bias) * (m/2^p)` for a zero or subnormal one
(00_scope.md R16). -/
def finiteValue (s E m bias p : Nat) : ℚ :=
  (-1) ^ s *
    (if E = 0 then (2 : ℚ) ^ (1 - (bias : ℤ)) * ((m : ℚ) / 2 ^ p)
     else (2 : ℚ) ^ ((E : ℤ) - bias) * (1 + (m : ℚ) / 2 ^ p))

/-- The value of a binary32 word; an infinity and a NaN have none (00_scope.md R16). -/
def value32 (fb : F32) : Option ℚ :=
  if f32Exp fb = 255#8 then none
  else some (finiteValue (f32Sign fb).toNat (f32Exp fb).toNat (f32Sig fb).toNat 127 23)

/-- The value of a binary16 word; an infinity and a NaN have none (00_scope.md R16). -/
def value16 (h : F16) : Option ℚ :=
  if f16Exp h = 31#5 then none
  else some (finiteValue (f16Sign h).toNat (f16Exp h).toNat (f16Sig h).toNat 15 10)

/-- A binary32 word of the range of UNPACK: a zero; a word whose low `126 - E` significand bits are zero, for
`103 <= E <= 112`; one whose low 13 are, for `113 <= E <= 142` or `E = 255` (43_codec_laws.md R141). -/
def inUnpackRange (fb : F32) : Bool :=
  let E := (f32Exp fb).toNat
  let m := (f32Sig fb).toNat
  if E = 0 then m = 0
  else if 103 ≤ E ∧ E ≤ 112 then m % 2 ^ (126 - E) = 0
  else if (113 ≤ E ∧ E ≤ 142) ∨ E = 255 then m % 2 ^ 13 = 0
  else false

end Sys2Proof.Machine
end

