-- ==== Sys2Proof/Machine/Flags.lean ====
section
/-! DEFINITION. Flags. The block has none: no operation sets or reads a status bit (10_state.md R23, 41_pack.md R101,
42_unpack.md R121), so no meaning calls anything of this file. What stands here is the list of 60_exceptions.md R161: the
events that IEEE 754 arithmetic would report, and for which operands, as a host could find them from the operand
(92_eei_decisions.md D6). The list is marked "from general knowledge, not in source" by R161 itself. -/

namespace Sys2Proof.Machine

/-- The events of 60_exceptions.md R161. None is reported or recorded by the block. -/
inductive Event where
  | overflow
  | underflow
  | inexact
  | invalid
  | subnormalOperand
  deriving DecidableEq, Repr

/-- A signalling NaN of binary32: bit 22, which IEEE 754 uses to mark a quiet NaN, is clear (41_pack.md R109 item c). -/
def isSignalling32 (fb : F32) : Bool := class32 fb = .nan ∧ fb.getLsbD 22 = false

/-- A signalling NaN of binary16: bit 9 is clear (42_unpack.md R130). -/
def isSignalling16 (h : F16) : Bool := class16 h = .nan ∧ h.getLsbD 9 = false

/-- Whether an event belongs to an operand of PACK: the operands column of 60_exceptions.md R161, with its magnitudes as the
exponent fields of 41_pack.md R107 and R112. The column gives `E = 0` for the subnormal operand, zeros included (log 10). -/
def packHas (fb : F32) : Event → Bool
  | .overflow => 143 ≤ (f32Exp fb).toNat ∧ (f32Exp fb).toNat ≤ 254
  | .underflow => (f32Exp fb).toNat ≤ 102 ∧ class32 fb ≠ .zero
  | .inexact => !inUnpackRange fb
  | .invalid => isSignalling32 fb
  | .subnormalOperand => f32Exp fb = 0#8

/-- Whether an event belongs to an operand of UNPACK (60_exceptions.md R161). -/
def unpackHas (h : F16) : Event → Bool
  | .overflow => false
  | .underflow => false
  | .inexact => false
  | .invalid => isSignalling16 h
  | .subnormalOperand => class16 h = .subnormal

/-- Whether an event belongs to an operation with its operand (60_exceptions.md R161). -/
def Event.belongsTo (e : Event) : Instr → Bool
  | .pack fb => packHas fb e
  | .unpack h => unpackHas h e

end Sys2Proof.Machine
end

