-- ==== Sys2Proof/Machine/Instances.lean ====
section
/-! DEFINITION. Many instances of the block: "the block may be instantiated any number of times", with no identifiers, no
start-up protocol and no signalling between them (60_exceptions.md R172, 92_eei_decisions.md D10). They share nothing but
constants, so a collection of instances is a list of codecs. -/

namespace Sys2Proof.Machine

/-- Instance number `k` takes a step and the others do not. A number with no instance behind it changes nothing (log 9). -/
def stepInstance (k : Nat) (cs : List State) : Host.Outcome (List State) Fault Refusal :=
  match cs[k]? with
  | none => .next cs
  | some s =>
    match step s with
    | .next s' => .next (cs.set k s')
    | .fault r => .fault r
    | .refused r => .refused r

/-- The instances take steps in the order of a schedule. -/
def stepInstances : List Nat → List State → Host.Outcome (List State) Fault Refusal
  | [], cs => .next cs
  | k :: ks, cs =>
    match stepInstance k cs with
    | .next cs' => stepInstances ks cs'
    | .fault r => .fault r
    | .refused r => .refused r

end Sys2Proof.Machine
end

