-- ==== Sys2Proof/Machine/LazyTables.lean ====
section
/-! DEFINITION. THE REALISATION THE SPEC DOES NOT TAKE (`TABLE_REALISATION` = lazy). The codec of this model is the constant
one (`Config.tableRealisation`) and uses nothing of this file. 70_reset_and_hazards.md R187 records what a model of tables
built at first use has more: "one more piece of state (tables built or not), one more agent (the builder), and the obligation
that no lookup reads a table before it is built and that two builders do not interleave; a lookup before construction is then
a fault, not a value". That much, and no more, is modelled (log 8). -/

namespace Sys2Proof.Machine

/-- The extra piece of state of 70_reset_and_hazards.md R187, with the one-time guard held by a builder meanwhile. -/
inductive BuildPhase where
  | absent
  | building (builder : Nat)
  | built
  deriving DecidableEq, Repr

/-- The codec and the state of its tables. -/
structure LazyState where
  phase : BuildPhase
  codec : State
  deriving DecidableEq, Repr

/-- What can happen next: a builder asks for the guard, a builder is done, or an operation is evaluated. -/
inductive LazyEvent where
  | startBuild (builder : Nat)
  | finishBuild (builder : Nat)
  | evaluate (i : Instr)
  deriving DecidableEq, Repr

/-- The operation of an event that is an evaluation. -/
def LazyEvent.operation? : LazyEvent → Option Instr
  | .startBuild _ => none
  | .finishBuild _ => none
  | .evaluate i => some i

/-- Why the lazy realisation stops. -/
inductive LazyFault where
  /-- Raised by an evaluation that would read a table before it is built: "a fault, not a value"
  (70_reset_and_hazards.md R187). Safe: the run stops where the hardware might go on. -/
  | lookupBeforeBuilt
  deriving DecidableEq, Repr

/-- One event. The guard makes the build idempotent and keeps a second builder out (70_reset_and_hazards.md R187). -/
def lazyStep (e : LazyEvent) (s : LazyState) : Host.Outcome LazyState LazyFault Refusal :=
  match e with
  | .startBuild b => .next (if s.phase = .absent then { s with phase := .building b } else s)
  | .finishBuild b => .next (if s.phase = .building b then { s with phase := .built } else s)
  | .evaluate i =>
    if s.phase = .built then
      match exec i s.codec with
      | .next c => .next { s with codec := c }
      | .fault r => nomatch r
      | .refused r => .refused r
    else .fault .lookupBeforeBuilt

/-- A run of events that stops at the first fault or refusal. -/
def lazyRun : List LazyEvent → LazyState → Host.Outcome LazyState LazyFault Refusal
  | [], s => .next s
  | e :: es, s =>
    match lazyStep e s with
    | .next s' => lazyRun es s'
    | .fault r => .fault r
    | .refused r => .refused r

end Sys2Proof.Machine
end

