-- ==== Sys2Proof/Machine/Network.lean ====
section
/-! DEFINITION. The notation of 30_encoding.md R71: a feed-forward network of converter instances, one line for each. A line
is `dst = PACK src` or `dst = UNPACK src`; `src` is a word of the operand width or a name an earlier line binds; `dst` is a
fresh name, bound once, that stands for a wire. There is no label, branch, loop or memory operand. -/

namespace Sys2Proof.Machine

/-- The source of a line: a literal word, or the wire an earlier line binds. A name is a number (log 9). -/
inductive Src (w : Nat) where
  | word (bits : BitVec w)
  | wire (name : Nat)
  deriving DecidableEq, Repr

/-- A line of the notation (30_encoding.md R71). -/
inductive Line where
  | pack (dst : Nat) (src : Src 32)
  | unpack (dst : Nat) (src : Src 16)
  deriving DecidableEq, Repr

/-- The name a line binds. -/
def Line.dst : Line → Nat
  | .pack d _ => d
  | .unpack d _ => d

/-- The width of the word a line binds (30_encoding.md R72). -/
def Line.dstWidth : Line → Nat
  | .pack _ _ => 16
  | .unpack _ _ => 32

/-! ### The checks: a source bound earlier with the operand's width, a fresh destination -/

/-- A source is a literal, or a name in scope with the width asked for. -/
def Src.inScope {w : Nat} (scope : List (Nat × Nat)) : Src w → Bool
  | .word _ => true
  | .wire n => scope.lookup n == some w

/-- The source of a line is in scope and its destination is fresh. -/
def Line.ok (scope : List (Nat × Nat)) (l : Line) : Bool :=
  (match l with
    | .pack _ src => src.inScope scope
    | .unpack _ src => src.inScope scope) && (scope.lookup l.dst).isNone

/-- Every line is in order after the lines before it. -/
def networkOk (scope : List (Nat × Nat)) : List Line → Bool
  | [] => true
  | l :: ls => l.ok scope && networkOk ((l.dst, l.dstWidth) :: scope) ls

/-! ### Evaluation -/

/-- The binary32 word of a source. -/
def Src.read32 (env : List (Nat × Value)) : Src 32 → Option F32
  | .word bits => some bits
  | .wire n =>
    match env.lookup n with
    | some (.f32 w) => some w
    | _ => none

/-- The binary16 word of a source. -/
def Src.read16 (env : List (Nat × Value)) : Src 16 → Option F16
  | .word bits => some bits
  | .wire n =>
    match env.lookup n with
    | some (.f16 w) => some w
    | _ => none

/-- The operation a line asks for, once its source has a word. -/
def Line.instr? (env : List (Nat × Value)) : Line → Option Instr
  | .pack _ src => (src.read32 env).map .pack
  | .unpack _ src => (src.read16 env).map .unpack

/-- The bindings after the lines: each line binds its name to the result of its operation. A line whose source has no word
of the operand's width ends the evaluation. -/
def evalNetwork (env : List (Nat × Value)) : List Line → Option (List (Nat × Value))
  | [] => some env
  | l :: ls =>
    match l.instr? env with
    | none => none
    | some i => evalNetwork ((l.dst, opResult i) :: env) ls

end Sys2Proof.Machine
end

