-- ==== Sys2Proof/Safety.lean ====
section
/-! DEFINITION. What counts as a good state and a good run of the codec, in the terms the statements use. -/

namespace Sys2Proof.Machine

/-- Both outputs are what their inputs give: `f16_out = PACK(f32_in)` and `f32_out = UNPACK(f16_in)`, which the block has at
all times (10_state.md R25). A state of the model in which this fails is no state of the block (log 3). -/
abbrev State.Settled (s : State) : Prop := s.f16Out = PACK s.f32In ∧ s.f32Out = UNPACK s.f16In

/-- The run of `n` steps from `s` ends in a next state (it meets no fault and no refusal), and that state is settled. -/
def RunsSettled (s : State) (n : Nat) : Prop :=
  ∃ t : State, core.run n s = .next t ∧ t.Settled

end Sys2Proof.Machine
end

