-- ==== Sys2Proof/Certificates/Slice0/Obligations.lean ====
section
/-! DEFINITION. The statements for the provers. Each docstring names the rule of the spec it formalises and, where the spec
marks that rule as derived, says so. -/

namespace Sys2Proof.Machine

/-! ### The spec's worked examples, as data -/

/-- 41_pack.md R116: operand, selector, significand, `BASE` element, `SHIFT` element, shifted significand, result. -/
def packExamples : List (F32 × Nat × Nat × BitVec 16 × BitVec 16 × Nat × F16) :=
  [(0x3F800000#32, 127, 0x000000, 0x3C00#16, 13#16, 0x000, 0x3C00#16),
   (0xBF000000#32, 382, 0x000000, 0xB800#16, 13#16, 0x000, 0xB800#16),
   (0x477FE000#32, 142, 0x7FE000, 0x7800#16, 13#16, 0x3FF, 0x7BFF#16),
   (0x40490FDB#32, 128, 0x490FDB, 0x4000#16, 13#16, 0x248, 0x4248#16),
   (0x34400000#32, 104, 0x400000, 0x0002#16, 22#16, 0x001, 0x0003#16),
   (0x33C00000#32, 103, 0x400000, 0x0001#16, 23#16, 0x000, 0x0001#16),
   (0x7F800001#32, 255, 0x000001, 0x7C00#16, 13#16, 0x000, 0x7C00#16)]

/-- 42_unpack.md R135: operand, selector, significand, `OFFS` element, index, `MANT` element, `EXPT` element, result. -/
def unpackExamples : List (F16 × Nat × Nat × BitVec 16 × Nat × F32 × F32 × F32) :=
  [(0x3C00#16, 15, 0x000, 1024#16, 1024, 0x38000000#32, 0x07800000#32, 0x3F800000#32),
   (0xB800#16, 46, 0x000, 1024#16, 1024, 0x38000000#32, 0x87000000#32, 0xBF000000#32),
   (0x7BFF#16, 30, 0x3FF, 1024#16, 2047, 0x387FE000#32, 0x0F000000#32, 0x477FE000#32),
   (0x0001#16, 0, 0x001, 0#16, 1, 0x33800000#32, 0x00000000#32, 0x33800000#32),
   (0x83FF#16, 32, 0x3FF, 0#16, 1023, 0x387FC000#32, 0x80000000#32, 0xB87FC000#32),
   (0x7E00#16, 31, 0x200, 1024#16, 1536, 0x38400000#32, 0x47800000#32, 0x7FC00000#32),
   (0xFC00#16, 63, 0x000, 1024#16, 1024, 0x38000000#32, 0xC7800000#32, 0xFF800000#32)]

/-- 43_codec_laws.md R145: the binary32 words of the eight inputs (marked general knowledge by the rule) and the document's
outputs. -/
def boundaryPairs : List (F32 × F16) :=
  [(0x00000000#32, 0x0000#16), (0x80000000#32, 0x8000#16), (0x3F800000#32, 0x3C00#16),
   (0xBF000000#32, 0xB800#16), (0xC0000000#32, 0xC000#16), (0x477FE000#32, 0x7BFF#16),
   (0x7F800000#32, 0x7C00#16), (0xFF800000#32, 0xFC00#16)]

end Sys2Proof.Machine

open Sys2Proof Sys2Proof.Machine

/-! ### Word formats, decoding and encoding -/

/-- 30_encoding.md R62 to R65: the selector and the significand of each operation are the document's shift and mask, the
masks `0x1FF` and `0x3F` remove nothing, `exp = 256 * s + E` for PACK and `exp = 32 * s + E` for UNPACK, and `exp < 256`
exactly when the sign of PACK's operand is 0. -/
def Obligations.FieldsAreTheDocumentsShiftsAndMasks : Prop :=
  (∀ fb : F32,
    (packSelector fb).setWidth 32 = (fb >>> 23) &&& 0x1FF#32 ∧
    (fb >>> 23) &&& 0x1FF#32 = fb >>> 23 ∧
    (packSelector fb).toNat = 256 * (f32Sign fb).toNat + (f32Exp fb).toNat ∧
    ((packSelector fb).toNat < 256 ↔ fb.getLsbD 31 = false) ∧
    (f32Sig fb).setWidth 32 = fb &&& 0x007FFFFF#32) ∧
  (∀ h : F16,
    (unpackSelector h).setWidth 16 = (h >>> 10) &&& 0x3F#16 ∧
    (h >>> 10) &&& 0x3F#16 = h >>> 10 ∧
    (unpackSelector h).toNat = 32 * (f16Sign h).toNat + (f16Exp h).toNat ∧
    (f16Sig h).setWidth 16 = h &&& 0x3FF#16)

/-- 30_encoding.md R66 (derived by the spec from R62, R64 and R16): the selectors of each value class, for both signs. Zero
and subnormal share a selector, as do infinity and NaN. -/
def Obligations.SelectorsByValueClass : Prop :=
  (∀ fb : F32, let exp := (packSelector fb).toNat
    ((class32 fb = .zero ∨ class32 fb = .subnormal) ↔ (exp = 0 ∨ exp = 256)) ∧
    (class32 fb = .normal ↔ (1 ≤ exp ∧ exp ≤ 254) ∨ (257 ≤ exp ∧ exp ≤ 510)) ∧
    ((class32 fb = .infinity ∨ class32 fb = .nan) ↔ (exp = 255 ∨ exp = 511))) ∧
  (∀ h : F16, let exp := (unpackSelector h).toNat
    ((class16 h = .zero ∨ class16 h = .subnormal) ↔ (exp = 0 ∨ exp = 32)) ∧
    (class16 h = .normal ↔ (1 ≤ exp ∧ exp ≤ 30) ∨ (33 ≤ exp ∧ exp ≤ 62)) ∧
    ((class16 h = .infinity ∨ class16 h = .nan) ↔ (exp = 31 ∨ exp = 63)))

/-- Every one of the 2^32 words of 32 bits is an operand of PACK and every one of the 2^16 words of 16 bits an operand of
UNPACK, none is refused, and each has one defined result, which exec delivers from every state (30_encoding.md R68). That the
width of a raw word selects the operation is the model's reading (log 12, DEDUCED) of 30_encoding.md R67 and decision D4: in
the block the port selects, and the operation table tells its rows apart by width. -/
def Obligations.EveryOperandWordIsLegal : Prop :=
  (∀ w : Nat, w < 2 ^ 32 → decodeTableWord 32 w = some (.pack (BitVec.ofNat 32 w))) ∧
  (∀ w : Nat, w < 2 ^ 16 → decodeTableWord 16 w = some (.unpack (BitVec.ofNat 16 w))) ∧
  (∀ (p : PortWord) (s : State), ∃ t : State,
    exec (decode p) s = .next t ∧ t.resultPort (decode p) = opResult (decode p))

/-- A raw word that is no word of either input port is rejected by name. The rejection is the model's (log 12): the spec has
no such word (10_state.md R24 gives the two widths). -/
def Obligations.OtherRawWordsAreRejectedByName : Prop :=
  (∀ n v : Nat, n ≠ 32 → n ≠ 16 → decodeRaw { nbits := n, value := v } = .error (.noPortOfWidth n)) ∧
  (∀ v : Nat, 2 ^ 32 ≤ v → decodeRaw { nbits := 32, value := v } = .error (.bitsAboveWidth 32 v)) ∧
  (∀ v : Nat, 2 ^ 16 ≤ v → decodeRaw { nbits := 16, value := v } = .error (.bitsAboveWidth 16 v))

/-- Decode and encode agree: the decoder reads from an operation's encoding that operation, with every operand; the encoding
is a well-formed raw word; and the choice of port gives the operation too (30_encoding.md R60, R61, R67; the layout of one raw
word is that of spec/opcode_table.json). -/
def Obligations.DecodeInvertsEncode : Prop :=
  ∀ i : Instr, i.wf = true →
    decodeRaw (encode i) = .ok i ∧ (encode i).wf = true ∧ decode (portOf i) = i

/-- Each raw word has at most one meaning: whatever the decoder accepts is the encoding of what it answers, so no bit of a
word is dropped (30_encoding.md R67, R68). -/
def Obligations.EncodeInvertsDecode : Prop :=
  ∀ (r : RawWord) (i : Instr), decodeRaw r = .ok i → encode i = r

/-- Words written out from the formats of 30_encoding.md R60 and R61 decode to the operations they stand for. -/
def Obligations.SampleWordsDecode : Prop :=
  decodeTableWord 32 0b0_01111111_00000000000000000000000 = some (.pack 0x3F800000#32) ∧
  decodeTableWord 32 0b1_10000000_10010010000111111011011 = some (.pack 0xC0490FDB#32) ∧
  decodeTableWord 16 0b0_01101_0101010101 = some (.unpack 0x3555#16) ∧
  decodeTableWord 16 0b1_00000_0000000001 = some (.unpack 0x8001#16)

/-! ### The tables -/

/-- 40_lookup_tables.md R88: the four fixed points of `MANT` the document gives. -/
def Obligations.MantissaFixedPoints : Prop :=
  MANT 0 = 0#32 ∧ MANT 1 = 0x33800000#32 ∧ MANT 1023 = 0x387FC000#32 ∧ MANT 1025 = 0x38002000#32

/-- 40_lookup_tables.md R81: the three index ranges of `MANT`. In the third the shifted index stays below bit 23, so the sum
equals the bitwise or. The last clause, that the constant is the difference of the biases in the exponent field, is one the
rule marks as derived by calculation. -/
def Obligations.MantissaTableByIndexRange : Prop :=
  MANT 0 = 0#32 ∧
  (∀ i : Fin 2048, 1 ≤ i.val → i.val ≤ 1023 → MANT i = renormalize i.val) ∧
  (∀ i : Fin 2048, 1024 ≤ i.val →
    MANT i = 0x38000000#32 + (BitVec.ofNat 32 (i.val - 1024) <<< 13) ∧
    MANT i = 0x38000000#32 ||| (BitVec.ofNat 32 (i.val - 1024) <<< 13) ∧
    (BitVec.ofNat 32 (i.val - 1024) <<< 13).toNat ≤ 0x7FE000) ∧
  (0x38000000 : Nat) = (127 - 15) <<< 23

/-- 40_lookup_tables.md R82: `renormalize` shifts `i << 13` left until bit 23 is set, takes `0x00800000` from the accumulator
for each shift, clears bit 23 and adds the bias adjustment; the loop runs at least once and at most ten times; and the final
sum is also a bitwise or. -/
def Obligations.RenormalizeShiftsUntilBit23 : Prop :=
  ∀ i : Nat, 1 ≤ i → i ≤ 1023 → ∃ k : Nat, 1 ≤ k ∧ k ≤ 10 ∧
    (∀ j : Nat, j < k → (BitVec.ofNat 32 i <<< 13 <<< j).getLsbD 23 = false) ∧
    (BitVec.ofNat 32 i <<< 13 <<< k).getLsbD 23 = true ∧
    renormalize i = ((BitVec.ofNat 32 i <<< 13 <<< k) &&& ~~~(0x00800000#32)) +
      (0#32 - BitVec.ofNat 32 k * 0x00800000#32 + 0x38800000#32) ∧
    renormalize i = ((BitVec.ofNat 32 i <<< 13 <<< k) &&& ~~~(0x00800000#32)) |||
      (0#32 - BitVec.ofNat 32 k * 0x00800000#32 + 0x38800000#32)

/-- 40_lookup_tables.md R89 (derived by the spec from R82): the closed form of `renormalize`. -/
def Obligations.RenormalizeHasTheClosedForm : Prop :=
  ∀ i : Nat, 1 ≤ i → i ≤ 1023 → renormalize i = renormalizeClosed i

/-- 40_lookup_tables.md R83: `OFFS` is 0 at the two selectors with exponent field 0 and 1024 at the 62 others. -/
def Obligations.OffsetTableValues : Prop :=
  OFFS 0 = 0#16 ∧ OFFS 32 = 0#16 ∧
  (∀ i : Fin 64, i.val ≠ 0 → i.val ≠ 32 → OFFS i = 1024#16) ∧
  ((List.finRange 64).filter fun i => OFFS i = 1024#16).length = 62

/-- 40_lookup_tables.md R84: every element of `EXPT`, its sign structure, that its elements are distinct, and how the special
elements make the maximal exponent field with the exponent constant of `MANT` (these two sums the rule marks as derived from
R81). -/
def Obligations.ExponentTableValues : Prop :=
  EXPT 0 = 0#32 ∧ EXPT 31 = 0x47800000#32 ∧ EXPT 32 = 0x80000000#32 ∧ EXPT 63 = 0xC7800000#32 ∧
  (∀ i : Fin 64, 1 ≤ i.val → i.val ≤ 30 → EXPT i = BitVec.ofNat 32 i.val <<< 23) ∧
  (∀ i : Fin 64, 33 ≤ i.val → i.val ≤ 62 →
    EXPT i = 0x80000000#32 + (BitVec.ofNat 32 (i.val - 32) <<< 23)) ∧
  (∀ i j : Fin 64, j.val = i.val + 32 → EXPT j = EXPT i + 0x80000000#32) ∧
  (∀ i j : Fin 64, EXPT i = EXPT j → i = j) ∧
  0x47800000#32 + 0x38000000#32 = 0x7F800000#32 ∧ 0xC7800000#32 + 0x38000000#32 = 0xFF800000#32 ∧
  (∀ i : Fin 64, EXPT i = (BitVec.ofNat 32 (i.val / 32) <<< 31) +
    (BitVec.ofNat 32 (if i.val % 32 = 31 then 143 else i.val % 32) <<< 23))

/-- 40_lookup_tables.md R85 and R86: the unbiased exponent of a selector, and every element of `BASE` by the range of
`i mod 256`; the negative half is the non-negative one with bit 15 set; 84 distinct values. -/
def Obligations.BaseTableValues : Prop :=
  (∀ i : Fin 512, unbiasedExp i = (i.val % 256 : Int) - 127 ∧ -127 ≤ unbiasedExp i ∧ unbiasedExp i ≤ 128) ∧
  (∀ i : Fin 512, let S : BitVec 16 := if 256 ≤ i.val then 0x8000#16 else 0x0000#16
    let E := i.val % 256
    BASE i =
      if E ≤ 102 then S
      else if E ≤ 112 then BitVec.ofNat 16 (2 ^ (E - 103)) ||| S
      else if E ≤ 142 then BitVec.ofNat 16 ((E - 112) * 2 ^ 10) ||| S
      else 0x7C00#16 ||| S) ∧
  (∀ i : Fin 512, unbiasedExp i ≥ -24 → unbiasedExp i < -14 →
    (BASE i &&& 0x7FFF#16) = 0x0400#16 >>> (-unbiasedExp i - 14).toNat) ∧
  (∀ i j : Fin 512, j.val = i.val + 256 → BASE j = BASE i ||| 0x8000#16 ∧ unbiasedExp j = unbiasedExp i) ∧
  (∀ i : Fin 512, (BASE i).getLsbD 15 = decide (256 ≤ i.val)) ∧
  ((List.finRange 512).map BASE).dedup.length = 84

/-- 40_lookup_tables.md R87: every element of `SHIFT` by the range of `i mod 256`; at `e = 15` (142 and 398) it is 13, as
90_conflicts.md C1 resolves; the shift does not depend on the sign; 12 distinct values, from 13 to 24. -/
def Obligations.ShiftTableValues : Prop :=
  (∀ i : Fin 512, let E := i.val % 256
    SHIFT i =
      if E ≤ 102 then 24#16
      else if E ≤ 112 then BitVec.ofNat 16 (126 - E)
      else if E ≤ 142 then 13#16
      else if E ≤ 254 then 24#16
      else 13#16) ∧
  (∀ i : Fin 512, -24 ≤ unbiasedExp i → unbiasedExp i < -14 → ((SHIFT i).toNat : Int) = -unbiasedExp i - 1) ∧
  SHIFT 142 = 13#16 ∧ SHIFT 398 = 13#16 ∧
  (∀ i j : Fin 512, j.val = i.val + 256 → SHIFT j = SHIFT i) ∧
  (∀ i : Fin 512, 13 ≤ (SHIFT i).toNat ∧ (SHIFT i).toNat ≤ 24) ∧
  ((List.finRange 512).map SHIFT).dedup.length = 12

/-- 40_lookup_tables.md R93 (derived by the spec by evaluating its rules): the sum and the exclusive or of the elements of
each table. -/
def Obligations.TableChecksums : Prop :=
  ((List.finRange 2048).map fun i => (MANT i).toNat).sum = 1923247767552 ∧
  ((List.finRange 64).map fun i => (OFFS i).toNat).sum = 63488 ∧
  ((List.finRange 64).map fun i => (EXPT i).toNat).sum = 78920024064 ∧
  ((List.finRange 512).map fun i => (BASE i).toNat).sum = 16517118 ∧
  ((List.finRange 512).map fun i => (SHIFT i).toNat).sum = 11496 ∧
  ((List.finRange 2048).map MANT).foldl (· ^^^ ·) 0#32 = 0x33C00000#32 ∧
  ((List.finRange 64).map OFFS).foldl (· ^^^ ·) 0#16 = 0#16 ∧
  ((List.finRange 64).map EXPT).foldl (· ^^^ ·) 0#32 = 0#32 ∧
  ((List.finRange 512).map BASE).foldl (· ^^^ ·) 0#16 = 0#16 ∧
  ((List.finRange 512).map SHIFT).foldl (· ^^^ ·) 0#16 = 0#16

/-- 40_lookup_tables.md R90 (derived by the spec from R81 and R82): `MANT` is strictly increasing on each half, the halves
overlap in value, and no element is larger than the last. -/
def Obligations.MantissaTableOrder : Prop :=
  (∀ i j : Fin 2048, i < j → j.val ≤ 1023 → (MANT i).toNat < (MANT j).toNat) ∧
  (∀ i j : Fin 2048, 1024 ≤ i.val → i < j → (MANT i).toNat < (MANT j).toNat) ∧
  (∀ i j : Fin 2048, 512 ≤ i.val → i.val ≤ 1023 → j.val = 1024 + 2 * (i.val - 512) → MANT i = MANT j) ∧
  (∀ i : Fin 2048, (MANT i).toNat ≤ 0x387FE000) ∧ MANT 2047 = 0x387FE000#32

/-- 20_memory.md R46 and R47 (derived by the spec): the lower half of `MANT` is read exactly for exponent field 0, and every
element of every table is read by some operation. That every index is in range is in the types. -/
def Obligations.EveryTableElementIsReachable : Prop :=
  (∀ h : F16, (mantIndex h).val ≤ 1023 ↔ f16Exp h = 0#5) ∧
  (∀ (t : Table) (k : Fin t.length), ∃ i : Instr, (⟨t, k⟩ : TableRead) ∈ tableReads i)

/-! ### PACK -/

/-- 41_pack.md R100: from every state PACK completes; `f16_out` gets the low 16 bits of `BASE[exp] + (sig >> SHIFT[exp])`
with `exp = fb[31:23]` and `sig = fb[22:0]`; the shift amount is from 13 to 24 and the sum is at most `0xFFFF`. -/
def Obligations.PackDeliversTheTableSum : Prop :=
  ∀ (fb : F32) (s : State),
    let exp : Fin 512 := (fb.extractLsb' 23 9).toFin
    let sig : BitVec 23 := fb.extractLsb' 0 23
    let sum : Nat := (BASE exp).toNat + (sig >>> (SHIFT exp).toNat).toNat
    exec (.pack fb) s = .next { s with f32In := fb, f16Out := BitVec.ofNat 16 sum } ∧
    13 ≤ (SHIFT exp).toNat ∧ (SHIFT exp).toNat ≤ 24 ∧ sum ≤ 0xFFFF

/-- 41_pack.md R104 (derived by the spec from R86 and R87): the two addends of PACK have no set bit in common, so the sum is
the bitwise or, it never exceeds `0xFFFF`, truncation removes nothing, and `0xFFFF` is reached exactly where bits 31:13 of
the operand are all ones. -/
def Obligations.PackSumNeverCarries : Prop :=
  ∀ fb : F32,
    let b := (BASE (packIndex fb)).toNat
    let shifted := (f32Sig fb).toNat >>> (SHIFT (packIndex fb)).toNat
    b &&& shifted = 0 ∧ packSum fb = b ||| shifted ∧ packSum fb ≤ 0xFFFF ∧
    (PACK fb).toNat = packSum fb ∧
    (packSum fb = 0xFFFF ↔ fb.extractLsb' 13 19 = BitVec.allOnes 19)

/-- 41_pack.md R105 (derived by the spec from R100, R86 and R87): for all 2^32 operands, PACK delivers the word of the
table-free form, and the sign bit is copied. -/
def Obligations.PackMatchesTheTableFreeForm : Prop :=
  ∀ (fb : F32) (s : State),
    exec (.pack fb) s = .next (s.onF32 fb (packDirect fb)) ∧ (packDirect fb).getLsbD 15 = fb.getLsbD 31

/-- 41_pack.md R106 and R113 (derived by the spec): PACK keeps the two zeros and the two infinities. -/
def Obligations.PackKeepsZerosAndInfinities : Prop :=
  ∀ s : State,
    exec (.pack 0x00000000#32) s = .next (s.onF32 0x00000000#32 0x0000#16) ∧
    exec (.pack 0x80000000#32) s = .next (s.onF32 0x80000000#32 0x8000#16) ∧
    exec (.pack 0x7F800000#32) s = .next (s.onF32 0x7F800000#32 0x7C00#16) ∧
    exec (.pack 0xFF800000#32) s = .next (s.onF32 0xFF800000#32 0xFC00#16)

/-- 41_pack.md R107 (derived by the spec): an operand of magnitude below `2^-24` (exactly those with exponent field at most
102) gives the zero of its sign; nothing is rounded up. -/
def Obligations.PackUnderflowsToTheSignedZero : Prop :=
  ∀ (fb : F32) (x : ℚ) (s : State), value32 fb = some x →
    (|x| < 2 ^ (-24 : ℤ) ↔ (f32Exp fb).toNat ≤ 102) ∧
    (|x| < 2 ^ (-24 : ℤ) → exec (.pack fb) s = .next (s.onF32 fb (joinF16 (f32Sign fb) 0#5 0#10)))

/-- 41_pack.md R108 (derived by the spec): for `2^-24 <= |x| < 65536` PACK delivers the binary16 word of the same sign whose
magnitude is the largest binary16 magnitude not exceeding `|x|`: round toward zero. -/
def Obligations.PackRoundsTowardZero : Prop :=
  ∀ (fb : F32) (x : ℚ) (s : State), value32 fb = some x → 2 ^ (-24 : ℤ) ≤ |x| → |x| < 65536 →
    ∃ (t : State) (y : ℚ), exec (.pack fb) s = .next t ∧ value16 t.f16Out = some y ∧
      f16Sign t.f16Out = f32Sign fb ∧ |y| ≤ |x| ∧
      ∀ (h : F16) (z : ℚ), value16 h = some z → |z| ≤ |x| → |z| ≤ |y|

/-- 43_codec_laws.md R149 (derived by the spec): PACK keeps the sign of every operand, and a finite result is never of larger
magnitude than its operand. -/
def Obligations.PackNeverGrowsAFiniteMagnitude : Prop :=
  (∀ fb : F32, f16Sign (PACK fb) = f32Sign fb) ∧
  (∀ (fb : F32) (x y : ℚ), value32 fb = some x → value16 (PACK fb) = some y → |y| ≤ |x|)

/-- 41_pack.md R110 (derived by the spec): for `2^-24 <= |x| < 2^-14` the result has exponent field 0 and significand
`floor(|x| / 2^-24)`, from 1 to 1023. -/
def Obligations.PackSubnormalResults : Prop :=
  ∀ (fb : F32) (x : ℚ) (s : State), value32 fb = some x → 2 ^ (-24 : ℤ) ≤ |x| → |x| < 2 ^ (-14 : ℤ) →
    ∃ t : State, exec (.pack fb) s = .next t ∧ f16Sign t.f16Out = f32Sign fb ∧ f16Exp t.f16Out = 0#5 ∧
      ((f16Sig t.f16Out).toNat : ℤ) = ⌊|x| * 2 ^ 24⌋ ∧
      1 ≤ (f16Sig t.f16Out).toNat ∧ (f16Sig t.f16Out).toNat ≤ 1023

/-- 41_pack.md R111 (derived by the spec; 90_conflicts.md C5): an operand with `65504 <= |x| < 65536`, that is bits 30:0 from
`0x477FE000` to `0x477FFFFF`, gives the largest finite word of its sign and not infinity. -/
def Obligations.PackTopOfTheFiniteRange : Prop :=
  ∀ (fb : F32) (s : State),
    ((∃ x : ℚ, value32 fb = some x ∧ 65504 ≤ |x| ∧ |x| < 65536) ↔
      0x477FE000 ≤ (fb.extractLsb' 0 31).toNat ∧ (fb.extractLsb' 0 31).toNat ≤ 0x477FFFFF) ∧
    (0x477FE000 ≤ (fb.extractLsb' 0 31).toNat → (fb.extractLsb' 0 31).toNat ≤ 0x477FFFFF →
      exec (.pack fb) s = .next (s.onF32 fb (joinF16 (f32Sign fb) 30#5 1023#10)))

/-- 41_pack.md R112 (derived by the spec): a finite operand of magnitude 65536 or more gives the infinity of its sign. -/
def Obligations.PackSaturatesToInfinity : Prop :=
  ∀ (fb : F32) (x : ℚ) (s : State), value32 fb = some x →
    (65536 ≤ |x| ↔ 143 ≤ (f32Exp fb).toNat ∧ (f32Exp fb).toNat ≤ 254) ∧
    (65536 ≤ |x| → exec (.pack fb) s = .next (s.onF32 fb (joinF16 (f32Sign fb) 31#5 0#10)))

/-- 41_pack.md R109 (derived by the spec; 90_conflicts.md C3, C4): a NaN's result has its sign, the maximal exponent field and
the top ten bits of its significand. NaNs are not collapsed to one pattern; those with significand from 1 to `0x1FFF`, and no
others, become infinities; bit 22 goes to bit 9 unchanged. -/
def Obligations.PackPassesNaNBitsThrough : Prop :=
  (∀ (fb : F32) (s : State), class32 fb = .nan →
    exec (.pack fb) s = .next (s.onF32 fb (joinF16 (f32Sign fb) 31#5 ((f32Sig fb).extractLsb' 13 10))) ∧
    (class16 (PACK fb) = .infinity ↔ 1 ≤ (f32Sig fb).toNat ∧ (f32Sig fb).toNat ≤ 0x1FFF) ∧
    (class16 (PACK fb) = .nan ↔ (f32Sig fb).extractLsb' 13 10 ≠ 0#10) ∧
    (PACK fb).getLsbD 9 = fb.getLsbD 22) ∧
  (∀ h : F16, class16 h = .nan → ∃ fb : F32, class32 fb = .nan ∧ PACK fb = h)

/-- 41_pack.md R116: the seven worked examples, each with its selector, significand, the two elements, the shifted
significand and the result. -/
def Obligations.PackWorkedExamples : Prop :=
  ∀ w ∈ packExamples,
    match w with
    | (fb, exp, sig, b, n, shifted, h) =>
      (packSelector fb).toNat = exp ∧ (f32Sig fb).toNat = sig ∧ BASE (packIndex fb) = b ∧
      SHIFT (packIndex fb) = n ∧ sig >>> n.toNat = shifted ∧ PACK fb = h

/-! ### UNPACK -/

/-- 42_unpack.md R120: from every state UNPACK completes; `f32_out` gets `MANT[OFFS[exp] + sig] + EXPT[exp]` with
`exp = h[15:10]` and `sig = h[9:0]`; the `OFFS` element is 0 or 1024, the index is at most 2047, and the true sum is below
`2^32`. -/
def Obligations.UnpackDeliversTheTableSum : Prop :=
  ∀ (h : F16) (s : State),
    let exp : Fin 64 := (h.extractLsb' 10 6).toFin
    let sig : BitVec 10 := h.extractLsb' 0 10
    (OFFS exp = 0#16 ∨ OFFS exp = 1024#16) ∧
    ∃ idx : Fin 2048, idx.val = (OFFS exp).toNat + sig.toNat ∧
      exec (.unpack h) s = .next { s with f16In := h, f32Out := MANT idx + EXPT exp } ∧
      (MANT idx).toNat + (EXPT exp).toNat < 2 ^ 32

/-- 42_unpack.md R124 (derived by the spec from R81, R82 and R84): the addition of UNPACK never wraps and never carries
between fields. The `EXPT` element has bits 22:0 zero, so nothing carries out of the significand; and bit 31 of the result is
that of the `EXPT` element, the `MANT` element having it clear, so nothing carries out of the exponent field. The largest
`MANT` element is `0x387FE000` and the largest sum `0xFFFFE000`, at `0xFFFF`. -/
def Obligations.UnpackSumNeverWraps : Prop :=
  (∀ h : F16,
    (MANT (mantIndex h)).toNat ≤ 0x387FE000 ∧ (MANT (mantIndex h)).getLsbD 31 = false ∧
    (EXPT (unpackIndex h)).toNat % 2 ^ 23 = 0 ∧
    (UNPACK h).toNat = (MANT (mantIndex h)).toNat + (EXPT (unpackIndex h)).toNat ∧
    (UNPACK h).extractLsb' 0 23 = (MANT (mantIndex h)).extractLsb' 0 23 ∧
    (UNPACK h).getLsbD 31 = (EXPT (unpackIndex h)).getLsbD 31 ∧
    (UNPACK h).toNat ≤ 0xFFFFE000) ∧
  UNPACK 0xFFFF#16 = 0xFFFFE000#32

/-- 42_unpack.md R125 (derived by the spec from R120, R89, R83 and R84): for every operand UNPACK delivers the word of the
table-free form, and the sign bit is copied. -/
def Obligations.UnpackMatchesTheTableFreeForm : Prop :=
  ∀ (h : F16) (s : State),
    exec (.unpack h) s = .next (s.onF16 h (unpackDirect h)) ∧ (unpackDirect h).getLsbD 31 = h.getLsbD 15

/-- 42_unpack.md R126 (derived by the spec): UNPACK is exact. A finite operand's result has the operand's value; an
infinity's result is the infinity of its sign. -/
def Obligations.UnpackIsExact : Prop :=
  ∀ (h : F16) (s : State), class16 h ≠ .nan →
    ∃ t : State, exec (.unpack h) s = .next t ∧ value32 t.f32Out = value16 h ∧
      f32Sign t.f32Out = f16Sign h ∧ (class32 t.f32Out = .infinity ↔ class16 h = .infinity) ∧
      (class32 t.f32Out = .zero ↔ class16 h = .zero)

/-- 42_unpack.md R127 to R131 (derived by the spec): the result of UNPACK by the class of its operand. A zero keeps its sign;
a subnormal becomes a normal word with exponent field 103 to 112, the element `MANT[m]` with the sign; a normal word has
exponent field `E + 112` and the significand `m` with 13 zeros; an infinity and a NaN keep their sign and significand bits
under the maximal exponent field. -/
def Obligations.UnpackByOperandClass : Prop :=
  ∀ (h : F16) (s : State), ∃ t : State, exec (.unpack h) s = .next t ∧
    (class16 h = .zero → t.f32Out = joinF32 (f16Sign h) 0#8 0#23) ∧
    (class16 h = .subnormal →
      (∃ k : Fin 2048, k.val = (f16Sig h).toNat ∧ t.f32Out.extractLsb' 0 31 = (MANT k).extractLsb' 0 31) ∧
      f32Sign t.f32Out = f16Sign h ∧ class32 t.f32Out = .normal ∧
      103 ≤ (f32Exp t.f32Out).toNat ∧ (f32Exp t.f32Out).toNat ≤ 112) ∧
    (class16 h = .normal →
      t.f32Out = joinF32 (f16Sign h) (BitVec.ofNat 8 ((f16Exp h).toNat + 112)) (f16Sig h ++ 0#13)) ∧
    (class16 h = .infinity → t.f32Out = joinF32 (f16Sign h) 255#8 0#23) ∧
    (class16 h = .nan → t.f32Out = joinF32 (f16Sign h) 255#8 (f16Sig h ++ 0#13) ∧
      class32 t.f32Out = .nan ∧ t.f32Out.getLsbD 22 = h.getLsbD 9)

/-- 42_unpack.md R132 (derived by the spec): UNPACK is injective, its results have bits 12:0 zero, none is a subnormal, and
the exponent fields that occur are 0, 103 to 142, and 255. -/
def Obligations.UnpackRange : Prop :=
  (∀ g h : F16, UNPACK g = UNPACK h → g = h) ∧
  (∀ h : F16, (UNPACK h).extractLsb' 0 13 = 0#13 ∧ class32 (UNPACK h) ≠ .subnormal ∧
    (f32Exp (UNPACK h) = 0#8 ∨ (103 ≤ (f32Exp (UNPACK h)).toNat ∧ (f32Exp (UNPACK h)).toNat ≤ 142) ∨
      f32Exp (UNPACK h) = 255#8))

/-- 42_unpack.md R135: the seven worked examples, each with its selector, significand, `OFFS` element, index, `MANT` and
`EXPT` elements and result. -/
def Obligations.UnpackWorkedExamples : Prop :=
  ∀ w ∈ unpackExamples,
    match w with
    | (h, exp, sig, o, idx, m, x, r) =>
      (unpackSelector h).toNat = exp ∧ (f16Sig h).toNat = sig ∧ OFFS (unpackIndex h) = o ∧
      (mantIndex h).val = idx ∧ MANT (mantIndex h) = m ∧ EXPT (unpackIndex h) = x ∧ UNPACK h = r

/-! ### Laws of the codec -/

/-- 43_codec_laws.md R145: the eight boundary pairs, in both directions, from every state. -/
def Obligations.EightBoundaryPairs : Prop :=
  ∀ p ∈ boundaryPairs,
    ∀ s : State, exec (.pack p.1) s = .next (s.onF32 p.1 p.2) ∧ exec (.unpack p.2) s = .next (s.onF16 p.2 p.1)

/-- 43_codec_laws.md R140 (derived by the spec from R105 and R125): UNPACK of any 16-bit word, and then PACK of what
`f32_out` carries, puts that word on `f16_out`, NaNs included; so every 16-bit word is a result of PACK. -/
def Obligations.HalfRoundTrip : Prop :=
  ∀ (h : F16) (s : State), ∃ t u : State,
    exec (.unpack h) s = .next t ∧ exec (.pack t.f32Out) t = .next u ∧ u.f16Out = h

/-- 43_codec_laws.md R141 (derived by the spec from R140 and R132): PACK and then UNPACK of what `f16_out` carries gives the
operand back exactly for the words the rule lists, which are exactly the results of UNPACK. -/
def Obligations.SingleRoundTripExactlyInRange : Prop :=
  ∀ (fb : F32) (s : State), ∃ t u : State,
    exec (.pack fb) s = .next t ∧ exec (.unpack t.f16Out) t = .next u ∧
    (u.f32Out = fb ↔ inUnpackRange fb = true) ∧ (inUnpackRange fb = true ↔ ∃ h : F16, UNPACK h = fb)

/-- 43_codec_laws.md R142 (derived by the spec from R140): a second conversion to binary16 loses nothing more. -/
def Obligations.PackIsIdempotentThroughUnpack : Prop :=
  ∀ (fb : F32) (s : State), ∃ t u v : State,
    exec (.pack fb) s = .next t ∧ exec (.unpack t.f16Out) t = .next u ∧ exec (.pack u.f32Out) u = .next v ∧
    v.f16Out = t.f16Out

/-- 43_codec_laws.md R143 (derived by the spec from R100, R86 and R87): on words of sign 0 that are not NaNs PACK is
monotone, and strictly so on the range of UNPACK; on words of sign 0 UNPACK is strictly monotone, NaNs included. -/
def Obligations.ConversionsAreMonotone : Prop :=
  (∀ a b : F32, a ≤ b → b ≤ 0x7F800000#32 → PACK a ≤ PACK b) ∧
  (∀ a b : F32, a < b → b ≤ 0x7F800000#32 → inUnpackRange a = true → inUnpackRange b = true → PACK a < PACK b) ∧
  (∀ g h : F16, g < h → h.getLsbD 15 = false → UNPACK g < UNPACK h)

/-- 43_codec_laws.md R144 (derived by the spec from R105 and R125): flipping the sign bit of the operand flips the sign bit of
the result and changes nothing else, for every word, NaNs included. -/
def Obligations.SignSymmetry : Prop :=
  (∀ (fb : F32) (s t : State), exec (.pack fb) s = .next t →
    exec (.pack (fb ^^^ 0x80000000#32)) s = .next (t.onF32 (fb ^^^ 0x80000000#32) (t.f16Out ^^^ 0x8000#16))) ∧
  (∀ (h : F16) (s t : State), exec (.unpack h) s = .next t →
    exec (.unpack (h ^^^ 0x8000#16)) s = .next (t.onF16 (h ^^^ 0x8000#16) (t.f32Out ^^^ 0x80000000#32)))

/-- 43_codec_laws.md R146 (derived by the spec from R105 and R125): in the normal range the round trip clears the low 13
significand bits, with relative error below `2^-10`; in the subnormal range it clears the low `126 - E`, with absolute error
below `2^-24`; the magnitude does not grow. -/
def Obligations.RoundTripTruncationError : Prop :=
  ∀ (fb : F32) (x : ℚ), value32 fb = some x →
    (2 ^ (-14 : ℤ) ≤ |x| → |x| < 65536 →
      UNPACK (PACK fb) = fb &&& 0xFFFFE000#32 ∧
      ∃ y : ℚ, value32 (UNPACK (PACK fb)) = some y ∧ |y| ≤ |x| ∧ |x - y| < 2 ^ (-10 : ℤ) * |x|) ∧
    (2 ^ (-24 : ℤ) ≤ |x| → |x| < 2 ^ (-14 : ℤ) →
      UNPACK (PACK fb) = fb &&& (BitVec.allOnes 32 <<< (126 - (f32Exp fb).toNat)) ∧
      ∃ y : ℚ, value32 (UNPACK (PACK fb)) = some y ∧ |y| ≤ |x| ∧ |x - y| < 2 ^ (-24 : ℤ))

/-- 43_codec_laws.md R147 (derived by the spec from R107, R111 and R112; 90_conflicts.md C5): what the round trip gives
outside the binary16 range. -/
def Obligations.RoundTripOutOfRange : Prop :=
  ∀ (fb : F32) (x : ℚ), value32 fb = some x →
    (|x| < 2 ^ (-24 : ℤ) → UNPACK (PACK fb) = joinF32 (f32Sign fb) 0#8 0#23) ∧
    (65536 ≤ |x| → UNPACK (PACK fb) = joinF32 (f32Sign fb) 255#8 0#23) ∧
    (65504 < |x| → |x| < 65536 →
      UNPACK (PACK fb) = if f32Sign fb = 0#1 then 0x477FE000#32 else 0xC77FE000#32)

/-- 43_codec_laws.md R148 (derived by the spec from R109 and R130; 90_conflicts.md C4): a NaN with a set bit among its top ten
significand bits comes back a NaN with its low 13 bits cleared; any other NaN comes back the infinity of its sign. -/
def Obligations.RoundTripOfNaNs : Prop :=
  ∀ fb : F32, class32 fb = .nan →
    ((f32Sig fb).extractLsb' 13 10 ≠ 0#10 →
      UNPACK (PACK fb) = fb &&& 0xFFFFE000#32 ∧ class32 (UNPACK (PACK fb)) = .nan) ∧
    ((f32Sig fb).extractLsb' 13 10 = 0#10 → UNPACK (PACK fb) = joinF32 (f32Sign fb) 255#8 0#23)

/-- 60_exceptions.md R161 (its list of events is marked general knowledge by the spec): what the block delivers for each
event. Overflow: the infinity of the operand's sign. Underflow: the zero of its sign. Inexact: exactly the operands whose
round trip is not the operand. Invalid: the NaN bits shifted, not quieted. Subnormal operand: PACK gives a zero, UNPACK a
normal word. -/
def Obligations.WhatTheBlockDeliversForEachEvent : Prop :=
  (∀ (fb : F32) (s : State), ∃ t : State, exec (.pack fb) s = .next t ∧
    (Event.overflow.belongsTo (.pack fb) = true → t.f16Out = joinF16 (f32Sign fb) 31#5 0#10) ∧
    (Event.underflow.belongsTo (.pack fb) = true → t.f16Out = joinF16 (f32Sign fb) 0#5 0#10) ∧
    (Event.inexact.belongsTo (.pack fb) = true ↔ UNPACK t.f16Out ≠ fb) ∧
    (Event.invalid.belongsTo (.pack fb) = true →
      t.f16Out = joinF16 (f32Sign fb) 31#5 ((f32Sig fb).extractLsb' 13 10) ∧ t.f16Out.getLsbD 9 = false) ∧
    (Event.subnormalOperand.belongsTo (.pack fb) = true → t.f16Out = joinF16 (f32Sign fb) 0#5 0#10)) ∧
  (∀ (h : F16) (s : State), ∃ t : State, exec (.unpack h) s = .next t ∧
    (Event.invalid.belongsTo (.unpack h) = true →
      t.f32Out = joinF32 (f16Sign h) 255#8 (f16Sig h ++ 0#13) ∧ isSignalling32 t.f32Out = true) ∧
    (Event.subnormalOperand.belongsTo (.unpack h) = true → class32 t.f32Out = .normal))

/-! ### The machine -/

/-- What each operation leaves unchanged: the ports of the other converter and the host's pending words. There is no flag
(10_state.md R23, 41_pack.md R101, 42_unpack.md R121), no register (R21) and no memory (20_memory.md R40) to change; the
pending words are the model's own (log 1). -/
def Obligations.OperationsChangeOnlyTheirOwnPorts : Prop :=
  (∀ (fb : F32) (s t : State), exec (.pack fb) s = .next t →
    t.f32In = fb ∧ t.f16In = s.f16In ∧ t.f32Out = s.f32Out ∧ t.pending = s.pending) ∧
  (∀ (h : F16) (s t : State), exec (.unpack h) s = .next t →
    t.f16In = h ∧ t.f32In = s.f32In ∧ t.f16Out = s.f16Out ∧ t.pending = s.pending)

/-- A step runs the operation decoded from the host's next word, with that word taken off the pending ones; with none
pending, nothing changes; and the word `withFetchWord` places is the one the next step runs. The pending words are the
model's own (log 1). -/
def Obligations.StepRunsTheDrivenOperand : Prop :=
  (∀ (s : State) (w : PortWord) (rest : List PortWord), s.pending = w :: rest →
    step s = exec (decode w) { s with pending := rest }) ∧
  (∀ s : State, s.pending = [] → step s = .next s) ∧
  (∀ (s : State) (nbits w : Nat) (i : Instr), decodeTableWord nbits w = some i →
    step (s.withFetchWord nbits w) = exec i s)

/-- Both operations are total and deterministic, and the set of exception causes is empty (43_codec_laws.md R150,
60_exceptions.md R160): every operation, from every state, answers a next state with its result on its output port. So does
every step; there the model's own choices come in, that a step with no word pending answers the same state (log 1, DESIGN
CHOICE) and that nothing is ever refused (log 4, DEDUCED). -/
def Obligations.NothingEverStops : Prop :=
  (Fault → False) ∧
  (∀ (i : Instr) (s : State), ∃ t : State, exec i s = .next t ∧ t.resultPort i = opResult i) ∧
  (∀ s : State, ∃ t : State, step s = .next t)

/-- The ports at reset. The input words are the model's choice (log 2); for them 10_state.md R34 gives these outputs. No word
is pending (log 1). -/
def Obligations.PortsAtReset : Prop :=
  State.reset.f32In = 0x00000000#32 ∧ State.reset.f16Out = 0x0000#16 ∧
  State.reset.f16In = 0x0000#16 ∧ State.reset.f32Out = 0x00000000#32 ∧ State.reset.pending = []

/-- The state at reset is settled: both outputs are what their inputs give (10_state.md R25, R34; log 2, log 3). -/
def Obligations.ResetIsSettled : Prop := State.reset.Settled

/-- 10_state.md R25, "at all times f16_out = PACK(f32_in) and f32_out = UNPACK(f16_in)", as an invariant: every step from a
settled state answers a settled state. That the outputs are held as data is the model's choice (log 3). -/
def Obligations.EveryStepKeepsTheOutputsSettled : Prop :=
  ∀ s t : State, s.Settled → step s = .next t → t.Settled

/-- The whole run, from any settled state: `n` steps meet no fault and no refusal, end settled, leave the pending words but
the first `n`, and the input ports carry the last words driven on them; so the outputs are the results of those words and of
nothing before them (10_state.md R20, R25; log 1, log 3). -/
def Obligations.EveryRunDeliversTheLastOperands : Prop :=
  ∀ (n : Nat) (s : State), s.Settled → RunsSettled s n ∧
    ∃ t : State, core.run n s = .next t ∧ t.pending = s.pending.drop n ∧
      t.f32In = lastF32In (s.pending.take n) s.f32In ∧ t.f16In = lastF16In (s.pending.take n) s.f16In ∧
      t.f16Out = PACK t.f32In ∧ t.f32Out = UNPACK t.f16In

/-- 10_state.md R20: the output of an operation is a function of its input word alone. Whatever two states an operation runs
from, and whatever each ran before, it puts the same word on its output port. -/
def Obligations.ResultsIgnoreHistory : Prop :=
  ∀ (i : Instr) (s t : State) (n m : Nat), ∃ s' t' s'' t'' : State,
    core.run n s = .next s' ∧ core.run m t = .next t' ∧ exec i s' = .next s'' ∧ exec i t' = .next t'' ∧
    s''.resultPort i = t''.resultPort i

/-- 60_exceptions.md R172: the two converters of one codec are independent and may be used in the same moment; either order
of the two operations gives the state in which both were driven at once. -/
def Obligations.ConvertersDoNotInteract : Prop :=
  ∀ (fb : F32) (h : F16) (s : State), ∃ t u : State,
    exec (.pack fb) s = .next t ∧ exec (.unpack h) t = .next (driveBoth fb h s) ∧
    exec (.unpack h) s = .next u ∧ exec (.pack fb) u = .next (driveBoth fb h s) ∧
    (driveBoth fb h s).f16Out = PACK fb ∧ (driveBoth fb h s).f32Out = UNPACK h

/-- 60_exceptions.md R172: evaluations in many instances commute, and a schedule has no effect on any result. Every schedule
runs to its end; two schedules that are permutations of each other end alike; and an instance that a schedule does not name
keeps its state. Instances are numbered by the model (log 9). -/
def Obligations.SchedulesOfInstancesDoNotMatter : Prop :=
  ∀ (ks js : List Nat) (cs : List State), ks.Perm js → ∃ ds : List State,
    stepInstances ks cs = .next ds ∧ stepInstances js cs = .next ds ∧ ds.length = cs.length ∧
    ∀ k : Nat, k ∉ ks → ds[k]? = cs[k]?

/-- 30_encoding.md R71: lines in order evaluate, and in the bindings they end with, each line's name is bound to the result
of its operation on the word its source has there. -/
def Obligations.NetworksInOrderEvaluate : Prop :=
  ∀ ls : List Line, networkOk [] ls = true → ∃ env : List (Nat × Value),
    evalNetwork [] ls = some env ∧ env.map Prod.fst = (ls.map Line.dst).reverse ∧
    ∀ l ∈ ls, ∃ i : Instr, l.instr? env = some i ∧ env.lookup l.dst = some (opResult i)

/-- 30_encoding.md R71: "the order of the lines has no meaning beyond binding names before use". Two orders of the same lines,
both in order, bind every name to the same word. -/
def Obligations.LineOrderHasNoOtherMeaning : Prop :=
  ∀ ls ms : List Line, ls.Perm ms → networkOk [] ls = true → networkOk [] ms = true →
    ∃ env fnv : List (Nat × Value), evalNetwork [] ls = some env ∧ evalNetwork [] ms = some fnv ∧
      ∀ n : Nat, env.lookup n = fnv.lookup n

/-- 70_reset_and_hazards.md R187, of the realisation the spec does not take; its events and its guard are the model's
(log 8). A lookup before the tables are built is a fault. With no build begun, a builder that starts gets the guard. A build
under way is ended by its own builder, and the tables are then built; no other event of a builder does anything meanwhile, so
two builders do not interleave. Once the tables are built they stay built, whatever events come, and every evaluation among
these is the codec's. -/
def Obligations.LazyTablesOnceBuiltAreTheCodec : Prop :=
  (∀ (i : Instr) (s : LazyState), s.phase ≠ .built → lazyStep (.evaluate i) s = .fault .lookupBeforeBuilt) ∧
  (∀ (b : Nat) (s : LazyState), s.phase = .absent →
    lazyStep (.startBuild b) s = .next { s with phase := .building b } ∧ lazyStep (.finishBuild b) s = .next s) ∧
  (∀ (b : Nat) (s : LazyState), s.phase = .building b →
    lazyStep (.finishBuild b) s = .next { s with phase := .built } ∧
    ∀ c : Nat, lazyStep (.startBuild c) s = .next s ∧ (c ≠ b → lazyStep (.finishBuild c) s = .next s)) ∧
  (∀ (b : Nat) (s : LazyState), s.phase = .built →
    lazyStep (.startBuild b) s = .next s ∧ lazyStep (.finishBuild b) s = .next s) ∧
  (∀ (es : List LazyEvent) (s : LazyState), s.phase = .built → ∃ c : State,
    lazyRun es s = .next { phase := .built, codec := c } ∧
    core.run (es.filterMap LazyEvent.operation?).length
      (s.codec.driveNext ((es.filterMap LazyEvent.operation?).map portOf)) = .next c)
end

