-- ==== Sys2Proof/Config.lean ====
section
/-! DEFINITION. The parameters of 00_scope.md R10, which are all the spec leaves to an implementation. No result of either
operation depends on any of them (00_scope.md R9, R10). -/

namespace Sys2Proof.Config

/-- How the five tables come to exist (00_scope.md R10, 92_eei_decisions.md D1). -/
inductive TableRealisation where
  /-- constant read-only memory, fixed when the block is built -/
  | constant
  /-- built at first use behind a one-time guard (70_reset_and_hazards.md R187) -/
  | lazy
  deriving DecidableEq, Repr

/-- `TABLE_REALISATION`: decision D1 fixes it to `constant`. The other realisation has a machine of its own in
Sys2Proof/Machine/LazyTables.lean, which this codec does not use. -/
def tableRealisation : TableRealisation := .constant

/-- `LATENCY_PACK`, the time from `f32_in` to `f16_out`: an open number, "any non-negative" one (00_scope.md R10, decision
D3), so it has no body. DESIGN CHOICE (log 5): its type is `Nat`, a whole number of a unit that is not named; the spec gives
neither a unit nor that the number is whole. -/
opaque latencyPack : Nat

/-- `LATENCY_UNPACK`, the time from `f16_in` to `f32_out`: open as `latencyPack` is, with the same DESIGN CHOICE of a whole
number of an unnamed unit (log 5). -/
opaque latencyUnpack : Nat

/-- The delay of an operation: "constant time independent of input value" (70_reset_and_hazards.md R190), so it looks at
the operation and not at its operand. No rule of the model reads it. -/
def latency : Instr → Nat
  | .pack _ => latencyPack
  | .unpack _ => latencyUnpack

end Sys2Proof.Config
end

