-- ==== Sys2Proof/Laws/State.lean ====
section
/-! SUPPORT. One lemma per field per update of State, so that no later proof unfolds a record update. -/

namespace Sys2Proof.Machine

@[simp] theorem State.onF32_f32In (s : State) (fb : F32) (o : F16) : (s.onF32 fb o).f32In = fb := rfl
@[simp] theorem State.onF32_f16Out (s : State) (fb : F32) (o : F16) : (s.onF32 fb o).f16Out = o := rfl
@[simp] theorem State.onF32_f16In (s : State) (fb : F32) (o : F16) : (s.onF32 fb o).f16In = s.f16In := rfl
@[simp] theorem State.onF32_f32Out (s : State) (fb : F32) (o : F16) : (s.onF32 fb o).f32Out = s.f32Out := rfl
@[simp] theorem State.onF32_pending (s : State) (fb : F32) (o : F16) : (s.onF32 fb o).pending = s.pending := rfl

@[simp] theorem State.onF16_f16In (s : State) (h : F16) (o : F32) : (s.onF16 h o).f16In = h := rfl
@[simp] theorem State.onF16_f32Out (s : State) (h : F16) (o : F32) : (s.onF16 h o).f32Out = o := rfl
@[simp] theorem State.onF16_f32In (s : State) (h : F16) (o : F32) : (s.onF16 h o).f32In = s.f32In := rfl
@[simp] theorem State.onF16_f16Out (s : State) (h : F16) (o : F32) : (s.onF16 h o).f16Out = s.f16Out := rfl
@[simp] theorem State.onF16_pending (s : State) (h : F16) (o : F32) : (s.onF16 h o).pending = s.pending := rfl

@[simp] theorem State.driveNext_f32In (s : State) (ws : List PortWord) : (s.driveNext ws).f32In = s.f32In := rfl
@[simp] theorem State.driveNext_f16Out (s : State) (ws : List PortWord) : (s.driveNext ws).f16Out = s.f16Out := rfl
@[simp] theorem State.driveNext_f16In (s : State) (ws : List PortWord) : (s.driveNext ws).f16In = s.f16In := rfl
@[simp] theorem State.driveNext_f32Out (s : State) (ws : List PortWord) : (s.driveNext ws).f32Out = s.f32Out := rfl
@[simp] theorem State.driveNext_pending (s : State) (ws : List PortWord) :
    (s.driveNext ws).pending = ws ++ s.pending := rfl

end Sys2Proof.Machine
end

