-- ==== Sys2Proof/Laws/Ops.lean ====
section
/-! SUPPORT. What each shared operation can do, said once. -/

namespace Sys2Proof.Machine

/-- The converters' ports are disjoint: their updates commute. -/
theorem State.onF32_onF16_comm (s : State) (fb : F32) (a : F16) (h : F16) (b : F32) :
    (s.onF32 fb a).onF16 h b = (s.onF16 h b).onF32 fb a := rfl

/-- `takePending` answers nothing only when nothing is pending. -/
theorem State.takePending_eq_none {s : State} (hp : s.takePending = none) : s.pending = [] := by
  unfold State.takePending at hp
  split at hp
  · assumption
  · cases hp

/-- `takePending` gives the first pending word and takes it off; the ports stay as they are. -/
theorem State.takePending_eq_some {s s' : State} {w : PortWord} (hp : s.takePending = some (w, s')) :
    ∃ rest, s.pending = w :: rest ∧ s' = { s with pending := rest } := by
  unfold State.takePending at hp
  split at hp
  · cases hp
  · rename_i v rest hv
    cases hp
    exact ⟨rest, hv, rfl⟩

/-- The meaning of PACK in one equation. -/
theorem exec_pack (fb : F32) (s : State) : exec (.pack fb) s = .next (s.onF32 fb (PACK fb)) := rfl

/-- The meaning of UNPACK in one equation. -/
theorem exec_unpack (h : F16) (s : State) : exec (.unpack h) s = .next (s.onF16 h (UNPACK h)) := rfl

/-- Everything a step can do: nothing, when no word is pending; else one of the two operations on the first pending word. -/
theorem step_cases {s t : State} (hs : step s = .next t) :
    (s.pending = [] ∧ t = s) ∨
    (∃ fb rest, s.pending = .f32In fb :: rest ∧ t = ({ s with pending := rest } : State).onF32 fb (PACK fb)) ∨
    (∃ h rest, s.pending = .f16In h :: rest ∧ t = ({ s with pending := rest } : State).onF16 h (UNPACK h)) := by
  unfold step at hs
  split at hs
  · rename_i hp
    cases hs
    exact .inl ⟨State.takePending_eq_none hp, rfl⟩
  · rename_i w s' hp
    obtain ⟨rest, hw, rfl⟩ := State.takePending_eq_some hp
    cases w with
    | f32In fb =>
      cases hs
      exact .inr (.inl ⟨fb, rest, hw, rfl⟩)
    | f16In h =>
      cases hs
      exact .inr (.inr ⟨h, rest, hw, rfl⟩)

/-- A table read is the table's own function of the index (20_memory.md R42). -/
theorem Table.read_mant (i : Fin 2048) : Table.mant.read i = MANT i := rfl
theorem Table.read_offs (i : Fin 64) : Table.offs.read i = OFFS i := rfl
theorem Table.read_expt (i : Fin 64) : Table.expt.read i = EXPT i := rfl
theorem Table.read_base (i : Fin 512) : Table.base.read i = BASE i := rfl
theorem Table.read_shift (i : Fin 512) : Table.shift.read i = SHIFT i := rfl

end Sys2Proof.Machine
end

