-- ==== Sys2Proof/Laws/LazyTables.lean ====
section
/-! SUPPORT. What an event of the lazy table realisation can do, said once. -/

namespace Sys2Proof.Machine

/-- Everything an event can do when it does not stop: a builder gets the guard, the builder that has it ends the build, an
operation runs on built tables, or a builder's event does nothing because it is not its turn. -/
theorem lazyStep_cases {e : LazyEvent} {s t : LazyState} (hs : lazyStep e s = .next t) :
    (∃ b, e = .startBuild b ∧ s.phase = .absent ∧ t = { s with phase := .building b }) ∨
    (∃ b, e = .finishBuild b ∧ s.phase = .building b ∧ t = { s with phase := .built }) ∨
    (∃ i c, e = .evaluate i ∧ s.phase = .built ∧ exec i s.codec = .next c ∧ t = { s with codec := c }) ∨
    (∃ b, ((e = .startBuild b ∧ s.phase ≠ .absent) ∨ (e = .finishBuild b ∧ s.phase ≠ .building b)) ∧ t = s) := by
  cases e with
  | startBuild b =>
    by_cases hp : s.phase = .absent
    · simp only [lazyStep, hp, if_true] at hs
      cases hs
      exact .inl ⟨b, rfl, hp, rfl⟩
    · simp only [lazyStep, hp, if_false] at hs
      cases hs
      exact .inr (.inr (.inr ⟨b, .inl ⟨rfl, hp⟩, rfl⟩))
  | finishBuild b =>
    by_cases hp : s.phase = .building b
    · simp only [lazyStep, hp, if_true] at hs
      cases hs
      exact .inr (.inl ⟨b, rfl, hp, rfl⟩)
    · simp only [lazyStep, hp, if_false] at hs
      cases hs
      exact .inr (.inr (.inr ⟨b, .inr ⟨rfl, hp⟩, rfl⟩))
  | evaluate i =>
    by_cases hp : s.phase = .built
    · simp only [lazyStep, hp, if_true] at hs
      cases i <;> cases hs <;> exact .inr (.inr (.inl ⟨_, _, rfl, hp, rfl, by rw [hp]⟩))
    · simp only [lazyStep, hp, if_false] at hs
      cases hs

@[simp] theorem LazyEvent.operation?_startBuild (b : Nat) : (LazyEvent.startBuild b).operation? = none := rfl
@[simp] theorem LazyEvent.operation?_finishBuild (b : Nat) : (LazyEvent.finishBuild b).operation? = none := rfl
@[simp] theorem LazyEvent.operation?_evaluate (i : Instr) : (LazyEvent.evaluate i).operation? = some i := rfl

end Sys2Proof.Machine
end

