-- ==== Sys2Proof/Laws/Words.lean ====
section
/-! SUPPORT. The fields of the two formats as numbers, that joining the fields of a word gives the word back, and what the
checks on a raw word say. -/

namespace Sys2Proof.Machine

theorem f32Sign_toNat (fb : F32) : (f32Sign fb).toNat = fb.toNat / 2 ^ 31 := by
  have h := fb.isLt
  simp only [f32Sign, BitVec.extractLsb'_toNat, Nat.shiftRight_eq_div_pow]
  omega

theorem f32Exp_toNat (fb : F32) : (f32Exp fb).toNat = fb.toNat / 2 ^ 23 % 2 ^ 8 := by
  simp only [f32Exp, BitVec.extractLsb'_toNat, Nat.shiftRight_eq_div_pow]

theorem f32Sig_toNat (fb : F32) : (f32Sig fb).toNat = fb.toNat % 2 ^ 23 := by
  simp only [f32Sig, BitVec.extractLsb'_toNat, Nat.shiftRight_zero]

theorem f16Sign_toNat (h : F16) : (f16Sign h).toNat = h.toNat / 2 ^ 15 := by
  have hl := h.isLt
  simp only [f16Sign, BitVec.extractLsb'_toNat, Nat.shiftRight_eq_div_pow]
  omega

theorem f16Exp_toNat (h : F16) : (f16Exp h).toNat = h.toNat / 2 ^ 10 % 2 ^ 5 := by
  simp only [f16Exp, BitVec.extractLsb'_toNat, Nat.shiftRight_eq_div_pow]

theorem f16Sig_toNat (h : F16) : (f16Sig h).toNat = h.toNat % 2 ^ 10 := by
  simp only [f16Sig, BitVec.extractLsb'_toNat, Nat.shiftRight_zero]

theorem packSelector_toNat (fb : F32) : (packSelector fb).toNat = fb.toNat / 2 ^ 23 := by
  have h := fb.isLt
  simp only [packSelector, BitVec.extractLsb'_toNat, Nat.shiftRight_eq_div_pow]
  omega

theorem unpackSelector_toNat (h : F16) : (unpackSelector h).toNat = h.toNat / 2 ^ 10 := by
  have hl := h.isLt
  simp only [unpackSelector, BitVec.extractLsb'_toNat, Nat.shiftRight_eq_div_pow]
  omega

theorem joinF32_toNat (s : BitVec 1) (E : BitVec 8) (m : BitVec 23) :
    (joinF32 s E m).toNat = s.toNat * 2 ^ 31 + E.toNat * 2 ^ 23 + m.toNat := by
  have hE := E.isLt
  have hm := m.isLt
  simp only [joinF32, BitVec.toNat_append]
  rw [← Nat.shiftLeft_add_eq_or_of_lt hm, ← Nat.shiftLeft_add_eq_or_of_lt hE, Nat.shiftLeft_eq, Nat.shiftLeft_eq]
  omega

theorem joinF16_toNat (s : BitVec 1) (E : BitVec 5) (m : BitVec 10) :
    (joinF16 s E m).toNat = s.toNat * 2 ^ 15 + E.toNat * 2 ^ 10 + m.toNat := by
  have hE := E.isLt
  have hm := m.isLt
  simp only [joinF16, BitVec.toNat_append]
  rw [← Nat.shiftLeft_add_eq_or_of_lt hm, ← Nat.shiftLeft_add_eq_or_of_lt hE, Nat.shiftLeft_eq, Nat.shiftLeft_eq]
  omega

/-- A binary32 word is the join of its fields (30_encoding.md R60). -/
theorem joinF32_fields (fb : F32) : joinF32 (f32Sign fb) (f32Exp fb) (f32Sig fb) = fb := by
  have h := fb.isLt
  apply BitVec.eq_of_toNat_eq
  rw [joinF32_toNat, f32Sign_toNat, f32Exp_toNat, f32Sig_toNat]
  omega

/-- A binary16 word is the join of its fields (30_encoding.md R61). -/
theorem joinF16_fields (h : F16) : joinF16 (f16Sign h) (f16Exp h) (f16Sig h) = h := by
  have hl := h.isLt
  apply BitVec.eq_of_toNat_eq
  rw [joinF16_toNat, f16Sign_toNat, f16Exp_toNat, f16Sig_toNat]
  omega

end Sys2Proof.Machine

namespace Sys2Proof

theorem RawWord.widthOk_iff (r : RawWord) : r.widthOk = true ↔ r.nbits = 32 ∨ r.nbits = 16 := by
  simp [RawWord.widthOk]

theorem RawWord.valueOk_iff (r : RawWord) : r.valueOk = true ↔ r.value < 2 ^ r.nbits :=
  decide_eq_true_iff

/-- A raw word is an operand word exactly when it is a whole word of one of the two formats. -/
theorem RawWord.wf_iff (r : RawWord) :
    r.wf = true ↔ (r.nbits = 32 ∨ r.nbits = 16) ∧ r.value < 2 ^ r.nbits := by
  rw [RawWord.wf, Bool.and_eq_true, RawWord.widthOk_iff, RawWord.valueOk_iff]

/-- The choice of port and the port of an operation are inverse to each other (30_encoding.md R67). -/
theorem portOf_decode (p : PortWord) : portOf (decode p) = p := by
  cases p <;> rfl

end Sys2Proof
end

