-- ==== Sys2Proof/Laws/PerInstr.lean ====
section
/-! SUPPORT. Families of statements made once for each constructor of Instr. -/

/-- The encoding of an operation has the operand's width, and no bit above it (30_encoding.md R69). -/
def Sys2Proof.Laws.EncodeWidth.Statement (i : Sys2Proof.Instr) : Prop :=
  (Sys2Proof.encode i).nbits = i.operandWidth ∧ (Sys2Proof.encode i).value < 2 ^ i.operandWidth

open Sys2Proof Sys2Proof.Machine

theorem Sys2Proof.Laws.EncodeWidth.pack (fb : F32) : Sys2Proof.Laws.EncodeWidth.Statement (.pack fb) := by
  refine ⟨rfl, ?_⟩
  have h := (joinF32 (f32Sign fb) (f32Exp fb) (f32Sig fb)).isLt
  rwa [joinF32_toNat] at h

theorem Sys2Proof.Laws.EncodeWidth.unpack (h : F16) : Sys2Proof.Laws.EncodeWidth.Statement (.unpack h) := by
  refine ⟨rfl, ?_⟩
  have hl := (joinF16 (f16Sign h) (f16Exp h) (f16Sig h)).isLt
  rwa [joinF16_toNat] at hl
end

