-- ==== Sys2Proof/Tests/Slice0.lean ====
section
/-! SUPPORT. The model's own tests, and a witness for each statement that has hypotheses. Expected values are those of
spec/95_test_vectors.md and of the rules named, none the model's own answer. -/

namespace Sys2Proof.Tests

open Sys2Proof.Machine

/-- The next state of an outcome, if there is one. -/
def nextOf (o : Host.Outcome State Fault Refusal) : Option State :=
  match o with
  | .next s => some s
  | .fault _ => none
  | .refused _ => none

/-- A small state: both ports driven, and one word pending. -/
def sample : State where
  f32In := 0x3F800000#32
  f16Out := 0x3C00#16
  f16In := 0x0001#16
  f32Out := 0x33800000#32
  pending := [.f16In 0x3555#16]

/-! ### Decoding: words written out from the formats of 30_encoding.md R60, R61 -/

theorem test_decode_pack_one :
    decodeTableWord 32 0b0_01111111_00000000000000000000000 = some (.pack 0x3F800000#32) := by decide

theorem test_decode_pack_minus_pi :
    decodeTableWord 32 0b1_10000000_10010010000111111011011 = some (.pack 0xC0490FDB#32) := by decide

theorem test_decode_unpack_third :
    decodeTableWord 16 0b0_01101_0101010101 = some (.unpack 0x3555#16) := by decide

theorem test_decode_unpack_minus_subnormal :
    decodeTableWord 16 0b1_00000_0000000001 = some (.unpack 0x8001#16) := by decide

/-- The fields of those operands are the ones 95_test_vectors.md programs P2 and P4 split them into. -/
theorem test_fields :
    (f32Sign 0x3EAAAAAB#32, f32Exp 0x3EAAAAAB#32, f32Sig 0x3EAAAAAB#32) = (0#1, 0x7D#8, 0x2AAAAB#23) ∧
    (f16Sign 0x83FF#16, f16Exp 0x83FF#16, f16Sig 0x83FF#16) = (1#1, 0x00#5, 0x3FF#10) := by decide

/-! ### WellFormed: an ill-formed term for each check -/

theorem smoke_width_24_refused : RawWord.widthOk { nbits := 24, value := 0 } = false := by decide

theorem smoke_value_above_width_refused : RawWord.valueOk { nbits := 16, value := 0x10000 } = false := by decide

theorem smoke_decoder_rejects_width_by_name :
    decodeRaw { nbits := 24, value := 0 } = .error (.noPortOfWidth 24) := rfl

theorem smoke_decoder_rejects_value_by_name :
    decodeRaw { nbits := 16, value := 0x10000 } = .error (.bitsAboveWidth 16 0x10000) := rfl

theorem smoke_unbound_wire_refused : networkOk [] [.pack 0 (.wire 7)] = false := by decide

theorem smoke_wire_of_wrong_width_refused :
    networkOk [] [.pack 0 (.word 0x3F800000#32), .pack 1 (.wire 0)] = false := by decide

theorem smoke_name_bound_twice_refused :
    networkOk [] [.pack 0 (.word 0x3F800000#32), .unpack 0 (.word 0x3C00#16)] = false := by decide

/-! ### The operations (95_test_vectors.md sections 1, 3.3, 3.4 and 3.5) -/

/-- Truncation: about 1/3 goes down, although `0x3556` is nearer. -/
theorem test_pack_truncates :
    (nextOf (exec (.pack 0x3EAAAAAB#32) sample)).map (·.f16Out) = some 0x3555#16 := by decide

/-- Just below 65536: the largest finite word, not infinity (90_conflicts.md C1, C5). -/
theorem test_pack_below_65536 :
    (nextOf (exec (.pack 0xC77FFFFF#32) sample)).map (·.f16Out) = some 0xFBFF#16 := by decide

/-- The largest subnormal, with the sign: the element `MANT[1023]`. -/
theorem test_unpack_subnormal :
    (nextOf (exec (.unpack 0x83FF#16) sample)).map (·.f32Out) = some 0xB87FC000#32 := by decide

/-- A NaN keeps its bits: the largest sum rule R120 forms. -/
theorem test_unpack_nan :
    (nextOf (exec (.unpack 0xFFFF#16) sample)).map (·.f32Out) = some 0xFFFFE000#32 := by decide

/-! ### Step and network -/

theorem test_step_runs_the_pending_word :
    (nextOf (step sample)).map (fun t => (t.f16In, t.f32Out, t.pending)) =
      some (0x3555#16, 0x3EAAA000#32, []) := by decide

theorem test_withFetchWord_runs_first_after_reset :
    (nextOf (step (State.reset.withFetchWord 32 0x33FFFFFF))).map (fun t => (t.f32In, t.f16Out)) =
      some (0x33FFFFFF#32, 0x0001#16) := by decide

/-- 95_test_vectors.md P2 in the notation of 30_encoding.md R71 (names a, b, c are 0, 1, 2). -/
theorem test_network_single_round_trip :
    evalNetwork [] [.pack 0 (.word 0x3EAAAAAB#32), .unpack 1 (.wire 0), .pack 2 (.wire 1)] =
      some [(2, .f16 0x3555#16), (1, .f32 0x3EAAA000#32), (0, .f16 0x3555#16)] := by decide

/-! ### Witnesses: every hypothesis of every statement is met, clause by clause -/

theorem witness_EveryOperandWordIsLegal : (0xFFFFFFFF : Nat) < 2 ^ 32 ∧ (0xFFFF : Nat) < 2 ^ 16 := by decide

theorem witness_OtherRawWordsAreRejectedByName :
    (0 : Nat) ≠ 32 ∧ (0 : Nat) ≠ 16 ∧ 2 ^ 32 ≤ (0x100000000 : Nat) ∧ 2 ^ 16 ≤ (0x10000 : Nat) := by decide

theorem witness_DecodeInvertsEncode :
    (Instr.pack 0xFFFFFFFF#32).wf = true ∧ (Instr.unpack 0x8000#16).wf = true := by decide

theorem witness_EncodeInvertsDecode :
    decodeRaw { nbits := 32, value := 0x80000000 } = .ok (.pack 0x80000000#32) ∧
    decodeRaw { nbits := 16, value := 0xFFFF } = .ok (.unpack 0xFFFF#16) := ⟨rfl, rfl⟩

/-- Index ranges 1 to 1023 and 1024 up, at their ends (RenormalizeShiftsUntilBit23 and RenormalizeHasTheClosedForm have the
first range too). -/
theorem witness_MantissaTableByIndexRange :
    (1 ≤ (1 : Fin 2048).val ∧ (1 : Fin 2048).val ≤ 1023) ∧ (1 ≤ (1023 : Fin 2048).val ∧ (1023 : Fin 2048).val ≤ 1023) ∧
    1024 ≤ (1024 : Fin 2048).val ∧ 1024 ≤ (2047 : Fin 2048).val := by decide

theorem witness_RenormalizeShiftsUntilBit23 : 1 ≤ (1 : Nat) ∧ (1 : Nat) ≤ 1023 := by decide

theorem witness_RenormalizeHasTheClosedForm : 1 ≤ (1023 : Nat) ∧ (1023 : Nat) ≤ 1023 := by decide

theorem witness_OffsetTableValues : (31 : Fin 64).val ≠ 0 ∧ (31 : Fin 64).val ≠ 32 := by decide

theorem witness_ExponentTableValues :
    (1 ≤ (30 : Fin 64).val ∧ (30 : Fin 64).val ≤ 30) ∧ (33 ≤ (33 : Fin 64).val ∧ (33 : Fin 64).val ≤ 62) ∧
    (63 : Fin 64).val = (31 : Fin 64).val + 32 := by decide

theorem witness_BaseTableValues :
    (unbiasedExp 103 ≥ -24 ∧ unbiasedExp 103 < -14) ∧ (unbiasedExp 368 ≥ -24 ∧ unbiasedExp 368 < -14) ∧
    (511 : Fin 512).val = (255 : Fin 512).val + 256 := by decide

theorem witness_ShiftTableValues :
    (-24 ≤ unbiasedExp 112 ∧ unbiasedExp 112 < -14) ∧ (398 : Fin 512).val = (142 : Fin 512).val + 256 := by decide

theorem witness_MantissaTableOrder :
    ((1022 : Fin 2048) < 1023 ∧ (1023 : Fin 2048).val ≤ 1023) ∧
    (1024 ≤ (1024 : Fin 2048).val ∧ (1024 : Fin 2048) < 1025) ∧
    (512 ≤ (1023 : Fin 2048).val ∧ (1023 : Fin 2048).val ≤ 1023 ∧
      (2046 : Fin 2048).val = 1024 + 2 * ((1023 : Fin 2048).val - 512)) := by decide

/-- The largest operand below `2^-24`, exponent field 102. -/
theorem witness_PackUnderflowsToTheSignedZero :
    value32 0x33000000#32 = some (1 / 33554432) ∧ |(1 / 33554432 : ℚ)| < 2 ^ (-24 : ℤ) := by
  refine ⟨by decide +kernel, by norm_num⟩

/-- The smallest operand of the range, `2^-24`, and the largest finite binary16 value, 65504. -/
theorem witness_PackRoundsTowardZero :
    (value32 0x33800000#32 = some (1 / 16777216) ∧ (2 : ℚ) ^ (-24 : ℤ) ≤ |1 / 16777216| ∧ |(1 / 16777216 : ℚ)| < 65536) ∧
    (value32 0x477FE000#32 = some 65504 ∧ (2 : ℚ) ^ (-24 : ℤ) ≤ |65504| ∧ |(65504 : ℚ)| < 65536) ∧
    (value16 0x7BFF#16 = some 65504 ∧ |(65504 : ℚ)| ≤ |65504|) := by
  refine ⟨⟨by decide +kernel, by norm_num, by norm_num⟩, ⟨by decide +kernel, by norm_num, by norm_num⟩, by decide +kernel, le_refl _⟩

theorem witness_PackNeverGrowsAFiniteMagnitude :
    value32 0xC0490FDB#32 = some (-(13176795 / 4194304)) ∧ value16 (PACK 0xC0490FDB#32) = some (-(3216 / 1024)) := by
  refine ⟨by decide +kernel, by decide +kernel⟩

/-- `2^-24` and `1023 * 2^-24`. -/
theorem witness_PackSubnormalResults :
    (value32 0x33800000#32 = some (1 / 16777216) ∧ (2 : ℚ) ^ (-24 : ℤ) ≤ |1 / 16777216| ∧
      |(1 / 16777216 : ℚ)| < 2 ^ (-14 : ℤ)) ∧
    (value32 0x387FC000#32 = some (1023 / 16777216) ∧ (2 : ℚ) ^ (-24 : ℤ) ≤ |1023 / 16777216| ∧
      |(1023 / 16777216 : ℚ)| < 2 ^ (-14 : ℤ)) := by
  refine ⟨⟨by decide +kernel, by norm_num, by norm_num⟩, by decide +kernel, by norm_num, by norm_num⟩

theorem witness_PackTopOfTheFiniteRange :
    (0x477FE000 ≤ ((0x477FE000#32).extractLsb' 0 31).toNat ∧ ((0x477FE000#32).extractLsb' 0 31).toNat ≤ 0x477FFFFF) ∧
    (0x477FE000 ≤ ((0xC77FFFFF#32).extractLsb' 0 31).toNat ∧ ((0xC77FFFFF#32).extractLsb' 0 31).toNat ≤ 0x477FFFFF) := by
  decide

theorem witness_PackSaturatesToInfinity :
    value32 0x47800000#32 = some 65536 ∧ (65536 : ℚ) ≤ |65536| := by
  refine ⟨by decide +kernel, by norm_num⟩

/-- A NaN that becomes an infinity, one that stays a NaN, and a binary16 NaN. -/
theorem witness_PackPassesNaNBitsThrough :
    class32 0x7F801FFF#32 = .nan ∧ class32 0x7F802000#32 = .nan ∧ class16 0x7C01#16 = .nan := by decide

theorem witness_PackWorkedExamples :
    (0x34400000#32, 104, 0x400000, 0x0002#16, 22#16, 0x001, 0x0003#16) ∈ packExamples := by decide

theorem witness_UnpackWorkedExamples :
    (0x0001#16, 0, 0x001, 0#16, 1, 0x33800000#32, 0x00000000#32, 0x33800000#32) ∈ unpackExamples := by decide

theorem witness_EightBoundaryPairs : (0x477FE000#32, 0x7BFF#16) ∈ boundaryPairs := by decide

theorem witness_UnpackIsExact : class16 0x7C00#16 ≠ .nan ∧ class16 0x0001#16 ≠ .nan := by decide

/-- One operand of each class. -/
theorem witness_UnpackByOperandClass :
    class16 0x8000#16 = .zero ∧ class16 0x03FF#16 = .subnormal ∧ class16 0x0400#16 = .normal ∧
    class16 0xFC00#16 = .infinity ∧ class16 0x7FFF#16 = .nan := by decide

theorem witness_UnpackRange : UNPACK 0x8001#16 = UNPACK 0x8001#16 := rfl

theorem witness_ConversionsAreMonotone :
    ((0x387FFFFF#32) ≤ 0x38800000#32 ∧ (0x38800000#32) ≤ 0x7F800000#32) ∧
    ((0x477FE000#32) < 0x7F800000#32 ∧ (0x7F800000#32) ≤ 0x7F800000#32 ∧
      inUnpackRange 0x477FE000#32 = true ∧ inUnpackRange 0x7F800000#32 = true) ∧
    ((0x7C00#16) < 0x7C01#16 ∧ (0x7C01#16).getLsbD 15 = false) := by decide

theorem witness_SignSymmetry :
    exec (.pack 0x7FC00000#32) sample = .next { sample with f32In := 0x7FC00000#32, f16Out := 0x7E00#16 } ∧
    exec (.unpack 0x0001#16) sample = .next { sample with f16In := 0x0001#16, f32Out := 0x33800000#32 } := ⟨rfl, rfl⟩

/-- `2^-14`, the smallest operand of the normal range, and `2^-24`, the smallest of the subnormal range. -/
theorem witness_RoundTripTruncationError :
    (value32 0x38800000#32 = some (1 / 16384) ∧ (2 : ℚ) ^ (-14 : ℤ) ≤ |1 / 16384| ∧ |(1 / 16384 : ℚ)| < 65536) ∧
    (value32 0x33800000#32 = some (1 / 16777216) ∧ (2 : ℚ) ^ (-24 : ℤ) ≤ |1 / 16777216| ∧
      |(1 / 16777216 : ℚ)| < 2 ^ (-14 : ℤ)) := by
  refine ⟨⟨by decide +kernel, by norm_num, by norm_num⟩, by decide +kernel, by norm_num, by norm_num⟩

theorem witness_RoundTripOutOfRange :
    (value32 0x00000000#32 = some 0 ∧ |(0 : ℚ)| < 2 ^ (-24 : ℤ)) ∧
    (value32 0x47800000#32 = some 65536 ∧ (65536 : ℚ) ≤ |65536|) ∧
    (value32 0x477FE100#32 = some 65505 ∧ (65504 : ℚ) < |65505| ∧ |(65505 : ℚ)| < 65536) := by
  refine ⟨⟨by decide +kernel, by norm_num⟩, ⟨by decide +kernel, by norm_num⟩, by decide +kernel, by norm_num, by norm_num⟩

theorem witness_RoundTripOfNaNs :
    (class32 0x7F802000#32 = .nan ∧ (f32Sig 0x7F802000#32).extractLsb' 13 10 ≠ 0#10) ∧
    (class32 0xFF801FFF#32 = .nan ∧ (f32Sig 0xFF801FFF#32).extractLsb' 13 10 = 0#10) := by decide

theorem witness_WhatTheBlockDeliversForEachEvent :
    Event.overflow.belongsTo (.pack 0x47800000#32) = true ∧ Event.underflow.belongsTo (.pack 0x337FFFFF#32) = true ∧
    Event.inexact.belongsTo (.pack 0x3EAAAAAB#32) = true ∧ Event.invalid.belongsTo (.pack 0x7FA00000#32) = true ∧
    Event.subnormalOperand.belongsTo (.pack 0x007FFFFF#32) = true ∧ Event.invalid.belongsTo (.unpack 0x7DFF#16) = true ∧
    Event.subnormalOperand.belongsTo (.unpack 0x03FF#16) = true := by decide

theorem witness_OperationsChangeOnlyTheirOwnPorts :
    exec (.pack 0x3F802000#32) sample = .next { sample with f32In := 0x3F802000#32, f16Out := 0x3C01#16 } ∧
    exec (.unpack 0xC000#16) sample = .next { sample with f16In := 0xC000#16, f32Out := 0xC0000000#32 } := ⟨rfl, rfl⟩

theorem witness_StepRunsTheDrivenOperand :
    sample.pending = .f16In 0x3555#16 :: [] ∧ State.reset.pending = [] ∧
    decodeTableWord 32 0xFFFFFFFF = some (.pack 0xFFFFFFFF#32) := by decide

theorem witness_EveryStepKeepsTheOutputsSettled :
    sample.Settled ∧ step sample = .next { sample with f16In := 0x3555#16, f32Out := 0x3EAAA000#32, pending := [] } :=
  ⟨by decide, rfl⟩

theorem witness_EveryRunDeliversTheLastOperands : sample.Settled := by decide

theorem witness_SchedulesOfInstancesDoNotMatter : [0, 1].Perm [1, 0] ∧ 2 ∉ [0, 1] := by decide

theorem witness_NetworksInOrderEvaluate :
    networkOk [] [.pack 0 (.word 0x3EAAAAAB#32), .unpack 1 (.wire 0), .pack 2 (.wire 1)] = true := by decide

/-- 95_test_vectors.md P6: two lines that share nothing, in either order. -/
theorem witness_LineOrderHasNoOtherMeaning :
    [Line.pack 0 (.word 0xC0490FDB#32), Line.unpack 1 (.word 0x8001#16)].Perm
      [Line.unpack 1 (.word 0x8001#16), Line.pack 0 (.word 0xC0490FDB#32)] ∧
    networkOk [] [.pack 0 (.word 0xC0490FDB#32), .unpack 1 (.word 0x8001#16)] = true ∧
    networkOk [] [.unpack 1 (.word 0x8001#16), .pack 0 (.word 0xC0490FDB#32)] = true := by decide

theorem witness_LazyTablesOnceBuiltAreTheCodec :
    BuildPhase.absent ≠ BuildPhase.built ∧ BuildPhase.building 1 ≠ BuildPhase.built ∧ (2 : Nat) ≠ 1 ∧
    lazyRun [.startBuild 1, .startBuild 2, .finishBuild 2] { phase := .absent, codec := sample } =
      .next { phase := .building 1, codec := sample } ∧
    lazyRun [.startBuild 1, .finishBuild 1, .startBuild 2, .finishBuild 2] { phase := .absent, codec := sample } =
      .next { phase := .built, codec := sample } :=
  ⟨by decide, by decide, by decide, rfl, rfl⟩

end Sys2Proof.Tests
end

section
/-! PROOFS. The family 30_encoding.md: the fields each operation cuts from its operand. -/

namespace Sys2Proof.Proofs

open Sys2Proof.Machine

/-- A bit slice, kept at the width of the word, is a shift followed by a mask (30_encoding.md R62 to R65). -/
theorem setWidth_extractLsb'_eq_shift_mask {w : Nat} (x : BitVec w) (lo n : Nat) :
    (x.extractLsb' lo n).setWidth w = (x >>> lo) &&& BitVec.ofNat w (2 ^ n - 1) := by
  apply BitVec.eq_of_getLsbD_eq
  intro i hi
  rw [BitVec.getLsbD_setWidth, BitVec.getLsbD_extractLsb', BitVec.getLsbD_and, BitVec.getLsbD_ushiftRight,
    BitVec.getLsbD_ofNat, Nat.testBit_two_pow_sub_one]
  simp only [hi, decide_true, Bool.true_and, Bool.and_comm]

/-- A mask that covers every bit the shift leaves removes nothing. -/
theorem shift_mask_eq_shift {w lo n : Nat} (x : BitVec w) (hn : w ≤ lo + n) :
    (x >>> lo) &&& BitVec.ofNat w (2 ^ n - 1) = x >>> lo := by
  apply BitVec.eq_of_getLsbD_eq
  intro i hi
  rw [BitVec.getLsbD_and, BitVec.getLsbD_ushiftRight, BitVec.getLsbD_ofNat, Nat.testBit_two_pow_sub_one]
  by_cases hin : i < n
  · simp only [hi, hin, decide_true, Bool.and_true]
  · have hout : x.getLsbD (lo + i) = false := BitVec.getLsbD_of_ge x (lo + i) (by omega)
    rw [hout, Bool.false_and]

/-- The PACK selector is the sign above the exponent field (30_encoding.md R62). -/
theorem packSelector_eq_sign_exp (fb : F32) :
    (packSelector fb).toNat = 256 * (f32Sign fb).toNat + (f32Exp fb).toNat := by
  rw [packSelector_toNat, f32Sign_toNat, f32Exp_toNat]
  omega

/-- The UNPACK selector is the sign above the exponent field (30_encoding.md R64). -/
theorem unpackSelector_eq_sign_exp (h : F16) :
    (unpackSelector h).toNat = 32 * (f16Sign h).toNat + (f16Exp h).toNat := by
  rw [unpackSelector_toNat, f16Sign_toNat, f16Exp_toNat]
  omega

/-- The lower half of the PACK selectors is that of sign 0. -/
theorem packSelector_lt_256_iff (fb : F32) : (packSelector fb).toNat < 256 ↔ fb.getLsbD 31 = false := by
  have hmsb : fb.getLsbD 31 = false ↔ 2 * fb.toNat < 2 ^ 32 := by
    rw [← BitVec.msb_eq_false_iff_two_mul_lt, BitVec.msb_eq_getLsbD_last]
  rw [hmsb, packSelector_toNat]
  omega

/-- Settles O1: the four fields are bit slices, hence shifts and masks, and the two masks on a selector cover all the bits the
shift leaves. -/
theorem fieldsAreTheDocumentsShiftsAndMasks : Obligations.FieldsAreTheDocumentsShiftsAndMasks := by
  unfold Obligations.FieldsAreTheDocumentsShiftsAndMasks
  constructor
  · intro fb
    have hsig : (f32Sig fb).setWidth 32 = (fb >>> 0) &&& 0x007FFFFF#32 :=
      setWidth_extractLsb'_eq_shift_mask fb 0 23
    rw [BitVec.ushiftRight_zero] at hsig
    exact ⟨setWidth_extractLsb'_eq_shift_mask fb 23 9, shift_mask_eq_shift (n := 9) fb (by decide),
      packSelector_eq_sign_exp fb, packSelector_lt_256_iff fb, hsig⟩
  · intro h
    have hsig : (f16Sig h).setWidth 16 = (h >>> 0) &&& 0x3FF#16 := setWidth_extractLsb'_eq_shift_mask h 0 10
    rw [BitVec.ushiftRight_zero] at hsig
    exact ⟨setWidth_extractLsb'_eq_shift_mask h 10 6, shift_mask_eq_shift (n := 6) h (by decide),
      unpackSelector_eq_sign_exp h, hsig⟩

end Sys2Proof.Proofs
end

section
/-! PROOFS. The family 40_lookup_tables.md: `MANT` and the loop of `renormalize`. -/

namespace Sys2Proof.Proofs

open Sys2Proof.Machine

/-- If the first shift of `m` that sets bit 23 is the `k`-th, and the fuel lasts for `k` turns, the loop of `renormalize` makes
exactly those `k` turns (40_lookup_tables.md R82). -/
theorem renormLoop_eq_of_first_set {fuel k : Nat} {m acc : BitVec 32} (hfuel : k ≤ fuel)
    (hclear : ∀ j, j < k → (m <<< j).getLsbD 23 = false) (hset : (m <<< k).getLsbD 23 = true) :
    renormLoop fuel m acc = (m <<< k, acc - BitVec.ofNat 32 k * 0x00800000#32) := by
  induction k generalizing fuel m acc with
  | zero =>
    have hstop : m.getLsbD 23 = true := by simpa using hset
    cases fuel <;> simp [renormLoop, hstop]
  | succ k ih =>
    obtain ⟨fuel, rfl⟩ : ∃ f, fuel = f + 1 := ⟨fuel - 1, by omega⟩
    have hgo : m.getLsbD 23 = false := by simpa using hclear 0 (by omega)
    have hshift (j : Nat) : m <<< 1 <<< j = m <<< (j + 1) := by rw [← BitVec.shiftLeft_add, Nat.add_comm]
    have hrest := ih (fuel := fuel) (m := m <<< 1) (acc := acc - 0x00800000#32) (by omega)
      (fun j hj => by rw [hshift]; exact hclear (j + 1) (by omega)) (by rw [hshift]; exact hset)
    have hacc : acc - 0x00800000#32 - BitVec.ofNat 32 k * 0x00800000#32 =
        acc - BitVec.ofNat 32 (k + 1) * 0x00800000#32 := by
      rw [BitVec.ofNat_add, BitVec.add_mul, BitVec.one_mul]
      abel
    simp only [renormLoop, hgo, Bool.false_eq_true, if_false, hrest, hshift, hacc]

/-- Bit `n` of the index after its shift into bit position 13 and `j` turns. -/
theorem getLsbD_shifted_index (i j n : Nat) :
    (BitVec.ofNat 32 i <<< 13 <<< j).getLsbD n = (decide (n < 32) && decide (13 + j ≤ n) && i.testBit (n - (13 + j))) := by
  rw [← BitVec.shiftLeft_add, BitVec.getLsbD_shiftLeft, BitVec.getLsbD_ofNat]
  by_cases hn : n < 32
  · by_cases hj : n < 13 + j
    · simp [hj, hn]
    · simp [hj, hn, show n - (13 + j) < 32 by omega, show 13 + j ≤ n by omega]
  · simp [hn]

/-- The number of turns `renormalize` makes: those that bring the highest set bit of the index from its place above bit 13 to
bit 23 (40_lookup_tables.md R82). -/
def renormTurns (i : Nat) : Nat := 10 - i.log2

theorem log2_le_nine {i : Nat} (hpos : 1 ≤ i) (hle : i ≤ 1023) : i.log2 ≤ 9 :=
  Nat.le_of_lt_succ ((Nat.log2_lt (by omega)).2 (by omega))

theorem renormTurns_bounds {i : Nat} (hpos : 1 ≤ i) (hle : i ≤ 1023) : 1 ≤ renormTurns i ∧ renormTurns i ≤ 10 := by
  have hlog := log2_le_nine hpos hle
  unfold renormTurns
  omega

/-- Above the highest set bit of the index nothing is set. -/
theorem testBit_eq_false_of_log2_lt {i n : Nat} (hn : i.log2 < n) : i.testBit n = false :=
  Nat.testBit_lt_two_pow (Nat.lt_log2_self.trans_le (Nat.pow_le_pow_right (by decide) hn))

theorem shifted_index_bit23_clear {i j : Nat} (hj : j < renormTurns i) :
    (BitVec.ofNat 32 i <<< 13 <<< j).getLsbD 23 = false := by
  unfold renormTurns at hj
  rw [getLsbD_shifted_index, testBit_eq_false_of_log2_lt (by omega), Bool.and_false]

theorem shifted_index_bit23_set {i : Nat} (hpos : 1 ≤ i) (hle : i ≤ 1023) :
    (BitVec.ofNat 32 i <<< 13 <<< renormTurns i).getLsbD 23 = true := by
  have hlog := log2_le_nine hpos hle
  have hplace : 23 - (13 + renormTurns i) = i.log2 := by unfold renormTurns; omega
  have hreach : 13 + renormTurns i ≤ 23 := by unfold renormTurns; omega
  rw [getLsbD_shifted_index, hplace, Nat.testBit_log2 (by omega)]
  simp [hreach]

/-- `renormalize` as the word and the accumulator its loop ends with (40_lookup_tables.md R82). -/
theorem renormalize_eq_shifted_add {i : Nat} (hpos : 1 ≤ i) (hle : i ≤ 1023) :
    renormalize i = ((BitVec.ofNat 32 i <<< 13 <<< renormTurns i) &&& ~~~(0x00800000#32)) +
      (0#32 - BitVec.ofNat 32 (renormTurns i) * 0x00800000#32 + 0x38800000#32) := by
  rw [renormalize, renormLoop_eq_of_first_set (renormTurns_bounds hpos hle).2 (fun _ hj => shifted_index_bit23_clear hj)
    (shifted_index_bit23_set hpos hle)]

/-- After `k` turns the accumulator and the bias adjustment make exponent field `113 - k` and no bit below it. -/
theorem accumulator_eq_exponent_field {k : Nat} (hk : k ≤ 113) :
    0#32 - BitVec.ofNat 32 k * 0x00800000#32 + 0x38800000#32 = BitVec.ofNat 32 (113 - k) <<< 23 := by
  obtain ⟨field, hfield⟩ : ∃ field, 113 = k + field := ⟨113 - k, by omega⟩
  have hbias : 0x38800000#32 = (BitVec.ofNat 32 k + BitVec.ofNat 32 field) * 0x00800000#32 := by
    rw [← BitVec.ofNat_add, ← hfield]
    rfl
  have hunit : BitVec.twoPow 32 23 = 0x00800000#32 := rfl
  rw [hbias, BitVec.shiftLeft_eq_mul_twoPow, hunit, hfield, Nat.add_sub_cancel_left, BitVec.add_mul, BitVec.zero_sub]
  abel

/-- With bit 23 cleared, the shifted index has no bit above the significand field. -/
theorem masked_shifted_index_high_clear {i n : Nat} (hpos : 1 ≤ i) (hle : i ≤ 1023) (hn : 23 ≤ n) :
    ((BitVec.ofNat 32 i <<< 13 <<< renormTurns i) &&& ~~~(0x00800000#32)).getLsbD n = false := by
  have hlog := log2_le_nine hpos hle
  rcases hn.eq_or_lt with rfl | hn
  · simp
  · rw [BitVec.getLsbD_and, getLsbD_shifted_index, testBit_eq_false_of_log2_lt (by unfold renormTurns; omega),
      Bool.and_false, Bool.false_and]

/-- The two summands of `renormalize` share no bit, so their sum is their bitwise or (40_lookup_tables.md R82). -/
theorem masked_shifted_index_and_exponent {i : Nat} (hpos : 1 ≤ i) (hle : i ≤ 1023) :
    ((BitVec.ofNat 32 i <<< 13 <<< renormTurns i) &&& ~~~(0x00800000#32)) &&&
      (0#32 - BitVec.ofNat 32 (renormTurns i) * 0x00800000#32 + 0x38800000#32) = 0#32 := by
  rw [accumulator_eq_exponent_field (le_trans (renormTurns_bounds hpos hle).2 (by decide))]
  apply BitVec.eq_of_getLsbD_eq
  intro n _
  rw [BitVec.getLsbD_and, BitVec.getLsbD_zero]
  rcases Nat.lt_or_ge n 23 with hlow | hhigh
  · rw [BitVec.getLsbD_shiftLeft, decide_eq_true hlow, Bool.not_true, Bool.and_false, Bool.false_and, Bool.and_false]
  · rw [masked_shifted_index_high_clear hpos hle hhigh, Bool.false_and]

/-- Settles O10: the loop's first hit on bit 23 is at the turn that brings the index's highest set bit there, and the word and
the exponent it leaves share no bit. -/
theorem renormalizeShiftsUntilBit23 : Obligations.RenormalizeShiftsUntilBit23 := by
  unfold Obligations.RenormalizeShiftsUntilBit23
  intro i hpos hle
  obtain ⟨hone, hten⟩ := renormTurns_bounds hpos hle
  have hsum := renormalize_eq_shifted_add hpos hle
  refine ⟨renormTurns i, hone, hten, fun j hj => shifted_index_bit23_clear hj, shifted_index_bit23_set hpos hle, hsum, ?_⟩
  rw [hsum]
  exact BitVec.add_eq_or_of_and_eq_zero _ _ (masked_shifted_index_and_exponent hpos hle)

theorem MANT_zero : MANT 0 = 0#32 := rfl

theorem MANT_of_le_1023 {i : Fin 2048} (hpos : 1 ≤ i.val) (hle : i.val ≤ 1023) : MANT i = renormalize i.val := by
  rw [MANT, if_neg (by omega), if_pos hle]

theorem MANT_of_1024_le {i : Fin 2048} (hi : 1024 ≤ i.val) :
    MANT i = 0x38000000#32 + (BitVec.ofNat 32 (i.val - 1024) <<< 13) := by
  rw [MANT, if_neg (by omega), if_neg (by omega)]

/-- Settles O8: the second and third fixed points are the ends of the renormalized range, where the loop makes ten turns and
one; the fourth is in the range of the plain formula. -/
theorem mantissaFixedPoints : Obligations.MantissaFixedPoints := by
  unfold Obligations.MantissaFixedPoints
  refine ⟨MANT_zero, ?_, ?_, ?_⟩
  · rw [MANT_of_le_1023 (by decide) (by decide), renormalize_eq_shifted_add (by decide) (by decide)]
    decide
  · rw [MANT_of_le_1023 (by decide) (by decide), renormalize_eq_shifted_add (by decide) (by decide)]
    decide
  · rw [MANT_of_1024_le (by decide)]
    decide

end Sys2Proof.Proofs
end

section
/-! PROOFS. The family 40_lookup_tables.md: `OFFS`, and the two tables PACK reads. -/

namespace Sys2Proof.Proofs

open Sys2Proof.Machine

/-! ### `OFFS` -/

theorem OFFS_eq_zero {i : Fin 64} (hi : i.val = 0 ∨ i.val = 32) : OFFS i = 0#16 := by
  rw [OFFS, if_pos hi]

theorem OFFS_eq_1024 {i : Fin 64} (hzero : i.val ≠ 0) (hneg : i.val ≠ 32) : OFFS i = 1024#16 := by
  rw [OFFS, if_neg (by omega)]

theorem OFFS_eq_1024_iff (i : Fin 64) : OFFS i = 1024#16 ↔ i.val ≠ 0 ∧ i.val ≠ 32 := by
  refine ⟨fun h => ?_, fun h => OFFS_eq_1024 h.1 h.2⟩
  by_contra hexp
  rw [OFFS_eq_zero (by omega)] at h
  exact absurd h (by decide)

/-- Settles O12: `OFFS` has two values, and the selectors other than 0 and 32 are 62. -/
theorem offsetTableValues : Obligations.OffsetTableValues := by
  unfold Obligations.OffsetTableValues
  refine ⟨OFFS_eq_zero (.inl rfl), OFFS_eq_zero (.inr rfl), fun _ => OFFS_eq_1024, ?_⟩
  simp only [OFFS_eq_1024_iff]
  rfl

/-! ### The unbiased exponent and the sign of a PACK selector -/

theorem unbiasedExp_eq (i : Fin 512) : unbiasedExp i = (i.val % 256 : Int) - 127 := by
  unfold unbiasedExp
  split <;> omega

theorem baseSign_eq (i : Fin 512) : baseSign i = if 256 ≤ i.val then 0x8000#16 else 0x0000#16 := by
  unfold baseSign
  split
  · rw [if_neg (by omega)]
  · rw [if_pos (by omega)]

/-- The two halves of the selectors have the same exponents. -/
theorem unbiasedExp_of_add_256 {i j : Fin 512} (hij : j.val = i.val + 256) : unbiasedExp j = unbiasedExp i := by
  rw [unbiasedExp_eq, unbiasedExp_eq]
  omega

/-! ### Counting the values of a table -/

/-- How many distinct values a table has, as the size of a finite set. -/
theorem length_dedup_map_finRange {n w : Nat} (f : Fin n → BitVec w) :
    ((List.finRange n).map f).dedup.length = (Finset.univ.image f).card := by
  rw [← List.card_toFinset]
  rfl

/-! ### `BASE` -/

/-- A Base element without its sign, by the exponent field `E` (40_lookup_tables.md R86): nothing, a power of two, an exponent
field of the result, or infinity. -/
def baseMagnitude (E : Nat) : Nat :=
  if E ≤ 102 then 0
  else if E ≤ 112 then 2 ^ (E - 103)
  else if E ≤ 142 then (E - 112) * 2 ^ 10
  else 0x7C00

theorem baseMagnitude_eq_zero {E : Nat} (h : E ≤ 102) : baseMagnitude E = 0 := if_pos h

theorem baseMagnitude_subnormal {E : Nat} (hlo : 103 ≤ E) (hhi : E ≤ 112) : baseMagnitude E = 2 ^ (E - 103) := by
  rw [baseMagnitude, if_neg (by omega), if_pos hhi]

theorem baseMagnitude_normal {E : Nat} (hlo : 113 ≤ E) (hhi : E ≤ 142) : baseMagnitude E = (E - 112) * 2 ^ 10 := by
  rw [baseMagnitude, if_neg (by omega), if_neg (by omega), if_pos hhi]

theorem baseMagnitude_infinity {E : Nat} (h : 143 ≤ E) : baseMagnitude E = 0x7C00 := by
  rw [baseMagnitude, if_neg (by omega), if_neg (by omega), if_neg (by omega)]

/-- The document's shift of the subnormal range is a power of two. -/
theorem shifted_0x0400_eq_two_pow {n : Nat} (hn : n ≤ 10) : 0x0400#16 >>> n = BitVec.ofNat 16 (2 ^ (10 - n)) := by
  have hlt : 2 ^ (10 - n) < 2 ^ 16 := Nat.pow_lt_pow_right (by decide) (by omega)
  apply BitVec.eq_of_toNat_eq
  rw [BitVec.toNat_ushiftRight, BitVec.toNat_ofNat, BitVec.toNat_ofNat, Nat.mod_eq_of_lt hlt, Nat.shiftRight_eq_div_pow]
  exact Nat.pow_div hn two_pos

/-- Every element of `BASE` is its magnitude with the sign or-ed in (40_lookup_tables.md R86). -/
theorem BASE_eq_magnitude_or_sign (i : Fin 512) : BASE i = BitVec.ofNat 16 (baseMagnitude (i.val % 256)) ||| baseSign i := by
  have he := unbiasedExp_eq i
  unfold BASE
  dsimp only
  split
  · rw [baseMagnitude_eq_zero (by omega), BitVec.zero_or]
  · split
    · have hn : (-unbiasedExp i - 14).toNat = 113 - i.val % 256 := by omega
      have hpow : 10 - (113 - i.val % 256) = i.val % 256 - 103 := by omega
      rw [hn, shifted_0x0400_eq_two_pow (by omega), hpow, baseMagnitude_subnormal (by omega) (by omega)]
    · split
      · have hexp : unbiasedExp i + 15 = ((i.val % 256 - 112 : Nat) : Int) := by omega
        rw [hexp, BitVec.ofInt_natCast, baseMagnitude_normal (by omega) (by omega), BitVec.ofNat_mul,
          BitVec.shiftLeft_eq_mul_twoPow]
        rfl
      · rw [baseMagnitude_infinity (by omega)]

theorem baseMagnitude_lt_succ {E : Nat} (hlo : 102 ≤ E) (hhi : E + 1 ≤ 143) : baseMagnitude E < baseMagnitude (E + 1) := by
  by_cases hzero : E = 102
  · rw [hzero]
    decide
  by_cases hsub : E + 1 ≤ 112
  · rw [baseMagnitude_subnormal (by omega) (by omega), baseMagnitude_subnormal (by omega) hsub]
    exact Nat.pow_lt_pow_right (by decide) (by omega)
  by_cases hseam : E = 112
  · rw [hseam]
    decide
  rw [baseMagnitude_normal (by omega) (by omega)]
  by_cases hnorm : E + 1 ≤ 142
  · rw [baseMagnitude_normal (by omega) hnorm]
    omega
  · rw [baseMagnitude_infinity (by omega)]
    omega

/-- From the last exponent field that gives zero to the first that gives infinity, the magnitude grows at every step. -/
theorem baseMagnitude_strictMonoOn : StrictMonoOn baseMagnitude (Set.Icc 102 143) :=
  strictMonoOn_of_lt_succ Set.ordConnected_Icc fun _ _ hE hE' => baseMagnitude_lt_succ hE.1 hE'.2

/-- Outside these exponent fields the magnitude is that of the nearer end. -/
theorem baseMagnitude_clamp (E : Nat) : baseMagnitude (max 102 (min 143 E)) = baseMagnitude E := by
  rcases Nat.le_total E 102 with hlow | hlow
  · rw [min_eq_right (by omega), max_eq_left hlow, baseMagnitude_eq_zero le_rfl, baseMagnitude_eq_zero hlow]
  · rcases Nat.le_total 143 E with hhigh | hhigh
    · rw [min_eq_left hhigh, max_eq_right (by decide), baseMagnitude_infinity le_rfl, baseMagnitude_infinity hhigh]
    · rw [min_eq_right hhigh, max_eq_right hlow]

theorem baseMagnitude_le (E : Nat) : baseMagnitude E ≤ 0x7C00 := by
  rw [← baseMagnitude_clamp E, ← baseMagnitude_infinity le_rfl]
  exact baseMagnitude_strictMonoOn.monotoneOn ⟨by omega, by omega⟩ ⟨by decide, le_rfl⟩ (by omega)

theorem ofNat_baseMagnitude_toNat (E : Nat) : (BitVec.ofNat 16 (baseMagnitude E)).toNat = baseMagnitude E := by
  have hle := baseMagnitude_le E
  rw [BitVec.toNat_ofNat]
  omega

/-- Bit 15 of an element is its sign bit: no magnitude reaches it. -/
theorem BASE_bit15 (i : Fin 512) : (BASE i).getLsbD 15 = decide (256 ≤ i.val) := by
  have hmag : (BitVec.ofNat 16 (baseMagnitude (i.val % 256))).getLsbD 15 = false := by
    rw [BitVec.getLsbD, ofNat_baseMagnitude_toNat]
    exact Nat.testBit_lt_two_pow (lt_of_le_of_lt (baseMagnitude_le _) (by decide))
  rw [BASE_eq_magnitude_or_sign, BitVec.getLsbD_or, hmag, Bool.false_or, baseSign_eq]
  split <;> rename_i hi
  · rw [decide_eq_true hi]
    rfl
  · rw [decide_eq_false hi]
    rfl

/-- The other bits of an element are its magnitude. -/
theorem BASE_low15 (i : Fin 512) : BASE i &&& 0x7FFF#16 = BitVec.ofNat 16 (baseMagnitude (i.val % 256)) := by
  have hmag : BitVec.ofNat 16 (baseMagnitude (i.val % 256)) &&& 0x7FFF#16 =
      BitVec.ofNat 16 (baseMagnitude (i.val % 256)) := by
    apply BitVec.eq_of_toNat_eq
    rw [BitVec.toNat_and, ofNat_baseMagnitude_toNat]
    exact Nat.and_two_pow_sub_one_of_lt_two_pow (n := 15) (lt_of_le_of_lt (baseMagnitude_le _) (by decide))
  have hsign : baseSign i &&& 0x7FFF#16 = 0#16 := by
    unfold baseSign
    split <;> rfl
  rw [BASE_eq_magnitude_or_sign, BitVec.and_or_distrib_right, hmag, hsign, BitVec.or_zero]

/-- Two elements of `BASE` are equal exactly when their selectors agree in the sign and in the magnitude. -/
theorem BASE_eq_iff (i j : Fin 512) :
    BASE i = BASE j ↔ (256 ≤ i.val ↔ 256 ≤ j.val) ∧ baseMagnitude (i.val % 256) = baseMagnitude (j.val % 256) := by
  constructor
  · intro h
    have hsign : decide (256 ≤ i.val) = decide (256 ≤ j.val) := by rw [← BASE_bit15, ← BASE_bit15, h]
    have hmag : BitVec.ofNat 16 (baseMagnitude (i.val % 256)) = BitVec.ofNat 16 (baseMagnitude (j.val % 256)) := by
      rw [← BASE_low15, ← BASE_low15, h]
    refine ⟨decide_eq_decide.1 hsign, ?_⟩
    rw [← ofNat_baseMagnitude_toNat, hmag, ofNat_baseMagnitude_toNat]
  · rintro ⟨hsign, hmag⟩
    rw [BASE_eq_magnitude_or_sign, BASE_eq_magnitude_or_sign, hmag, baseSign_eq, baseSign_eq]
    simp only [hsign]

theorem BASE_by_exponent_field (i : Fin 512) (S : BitVec 16) (hS : baseSign i = S) :
    BASE i =
      if i.val % 256 ≤ 102 then S
      else if i.val % 256 ≤ 112 then BitVec.ofNat 16 (2 ^ (i.val % 256 - 103)) ||| S
      else if i.val % 256 ≤ 142 then BitVec.ofNat 16 ((i.val % 256 - 112) * 2 ^ 10) ||| S
      else 0x7C00#16 ||| S := by
  rw [BASE_eq_magnitude_or_sign, hS, baseMagnitude]
  split_ifs
  · exact BitVec.zero_or
  all_goals rfl

/-- In the subnormal range the magnitude is the document's shift of `0x0400` (40_lookup_tables.md R86). -/
theorem BASE_low15_subnormal {i : Fin 512} (hlo : unbiasedExp i ≥ -24) (hhi : unbiasedExp i < -14) :
    (BASE i &&& 0x7FFF#16) = 0x0400#16 >>> (-unbiasedExp i - 14).toNat := by
  have he := unbiasedExp_eq i
  have hpow : 10 - (-unbiasedExp i - 14).toNat = i.val % 256 - 103 := by omega
  rw [BASE_low15, shifted_0x0400_eq_two_pow (by omega), hpow, baseMagnitude_subnormal (by omega) (by omega)]

theorem BASE_of_add_256 {i j : Fin 512} (hij : j.val = i.val + 256) : BASE j = BASE i ||| 0x8000#16 := by
  have hE : j.val % 256 = i.val % 256 := by omega
  rw [BASE_eq_magnitude_or_sign, BASE_eq_magnitude_or_sign, hE, baseSign_eq, baseSign_eq, if_pos (by omega),
    if_neg (by omega), BitVec.or_zero]

/-- One selector for each pair of a sign and an exponent field that the magnitude tells apart. -/
def baseRepresentative (p : Fin 2 × Fin 42) : Fin 512 := ⟨256 * p.1.val + (102 + p.2.val), by omega⟩

theorem BASE_baseRepresentative_injective : Function.Injective fun p => BASE (baseRepresentative p) := by
  rintro ⟨s, k⟩ ⟨t, l⟩ h
  obtain ⟨hsign, hmag⟩ := (BASE_eq_iff _ _).1 h
  simp only [baseRepresentative] at hsign hmag
  have hfield := baseMagnitude_strictMonoOn.injOn ⟨by omega, by omega⟩ ⟨by omega, by omega⟩ hmag
  have hs : s = t := Fin.ext (by omega)
  have hk : k = l := Fin.ext (by omega)
  rw [hs, hk]

/-- Every element of `BASE` is one of a representative. -/
theorem exists_baseRepresentative (i : Fin 512) : ∃ p, BASE (baseRepresentative p) = BASE i := by
  refine ⟨⟨⟨i.val / 256, by omega⟩, ⟨max 102 (min 143 (i.val % 256)) - 102, by omega⟩⟩, (BASE_eq_iff _ _).2 ?_⟩
  have hfield : (256 * (i.val / 256) + (102 + (max 102 (min 143 (i.val % 256)) - 102))) % 256 =
      max 102 (min 143 (i.val % 256)) := by omega
  simp only [baseRepresentative, hfield, baseMagnitude_clamp, and_true]
  omega

/-- `BASE` has one value for each representative (40_lookup_tables.md R86). -/
theorem length_dedup_BASE : ((List.finRange 512).map BASE).dedup.length = 84 := by
  have himage : Finset.univ.image BASE = Finset.univ.image fun p => BASE (baseRepresentative p) := by
    ext v
    simp only [Finset.mem_image, Finset.mem_univ, true_and]
    constructor
    · rintro ⟨i, rfl⟩
      exact exists_baseRepresentative i
    · rintro ⟨p, rfl⟩
      exact ⟨_, rfl⟩
  rw [length_dedup_map_finRange, himage, Finset.card_image_of_injective _ BASE_baseRepresentative_injective]
  rfl

/-- Settles O14: an element is a magnitude, which depends on the exponent field alone, with the sign or-ed in at bit 15; the
magnitude takes 42 values. -/
theorem baseTableValues : Obligations.BaseTableValues := by
  unfold Obligations.BaseTableValues
  refine ⟨fun i => ?_, fun i => BASE_by_exponent_field i _ (baseSign_eq i), fun _ => BASE_low15_subnormal,
    fun _ _ hij => ⟨BASE_of_add_256 hij, unbiasedExp_of_add_256 hij⟩, BASE_bit15, length_dedup_BASE⟩
  have he := unbiasedExp_eq i
  exact ⟨he, by omega, by omega⟩

/-! ### `SHIFT` -/

/-- Every element of `SHIFT` by the exponent field (40_lookup_tables.md R87, with 90_conflicts.md C1 at `e = 15`). -/
theorem SHIFT_by_exponent_field (i : Fin 512) :
    SHIFT i =
      if i.val % 256 ≤ 102 then 24#16
      else if i.val % 256 ≤ 112 then BitVec.ofNat 16 (126 - i.val % 256)
      else if i.val % 256 ≤ 142 then 13#16
      else if i.val % 256 ≤ 254 then 24#16
      else 13#16 := by
  have he := unbiasedExp_eq i
  have hzero : unbiasedExp i < -24 ↔ i.val % 256 ≤ 102 := by omega
  have hsub : unbiasedExp i < -14 ↔ i.val % 256 ≤ 112 := by omega
  have hnorm : unbiasedExp i ≤ 15 ↔ i.val % 256 ≤ 142 := by omega
  have hover : unbiasedExp i < 128 ↔ i.val % 256 ≤ 254 := by omega
  simp only [SHIFT, hzero, hsub, hnorm, hover]
  split_ifs with h102 h112
  · rfl
  · have hnat : -unbiasedExp i - 1 = ((126 - i.val % 256 : Nat) : Int) := by omega
    rw [hnat, BitVec.ofInt_natCast]
  all_goals rfl

/-- In the subnormal range the shift is `-e - 1`. -/
theorem SHIFT_toNat_subnormal {i : Fin 512} (hlo : -24 ≤ unbiasedExp i) (hhi : unbiasedExp i < -14) :
    ((SHIFT i).toNat : Int) = -unbiasedExp i - 1 := by
  have he := unbiasedExp_eq i
  rw [SHIFT_by_exponent_field, if_neg (by omega), if_pos (by omega), BitVec.toNat_ofNat]
  omega

/-- The shift does not depend on the sign. -/
theorem SHIFT_of_add_256 {i j : Fin 512} (hij : j.val = i.val + 256) : SHIFT j = SHIFT i := by
  have hE : j.val % 256 = i.val % 256 := by omega
  rw [SHIFT_by_exponent_field, SHIFT_by_exponent_field, hE]

theorem SHIFT_bounds (i : Fin 512) : 13 ≤ (SHIFT i).toNat ∧ (SHIFT i).toNat ≤ 24 := by
  rw [SHIFT_by_exponent_field]
  split_ifs
  · decide
  · rw [BitVec.toNat_ofNat]
    omega
  all_goals decide

/-- Every shift from 13 to 24 is attained between the last exponent field that gives zero and the first of a normal result. -/
theorem exists_SHIFT_eq {n : Nat} (hlo : 13 ≤ n) (hhi : n ≤ 24) : ∃ i, (SHIFT i).toNat = n := by
  refine ⟨⟨126 - n, by omega⟩, ?_⟩
  have hE : (126 - n) % 256 = 126 - n := Nat.mod_eq_of_lt (by omega)
  rw [SHIFT_by_exponent_field]
  simp only [hE]
  split_ifs <;> rw [BitVec.toNat_ofNat] <;> omega

/-- The values of `SHIFT` are the numbers from 13 to 24 (40_lookup_tables.md R87). -/
theorem length_dedup_SHIFT : ((List.finRange 512).map SHIFT).dedup.length = 12 := by
  have himage : (Finset.univ.image SHIFT).image BitVec.toNat = Finset.Icc 13 24 := by
    ext n
    simp only [Finset.image_image, Finset.mem_image, Finset.mem_univ, true_and, Function.comp_apply, Finset.mem_Icc]
    constructor
    · rintro ⟨i, rfl⟩
      exact SHIFT_bounds i
    · rintro ⟨hlo, hhi⟩
      exact exists_SHIFT_eq hlo hhi
  rw [length_dedup_map_finRange, ← Finset.card_image_of_injective _ BitVec.toNat_injective, himage]
  rfl

/-- Settles O15: the shift depends on the exponent field alone, and its values are the numbers from 13 to 24. -/
theorem shiftTableValues : Obligations.ShiftTableValues := by
  unfold Obligations.ShiftTableValues
  exact ⟨SHIFT_by_exponent_field, fun _ => SHIFT_toNat_subnormal, SHIFT_by_exponent_field 142, SHIFT_by_exponent_field 398,
    fun _ _ => SHIFT_of_add_256, SHIFT_bounds, length_dedup_SHIFT⟩

end Sys2Proof.Proofs
end

section
/-! PROOFS. The family 41_pack.md: the sum PACK delivers. -/

namespace Sys2Proof.Proofs

open Sys2Proof.Machine

/-- A Base element as a number: the magnitude of its exponent field below the sign bit (40_lookup_tables.md R86). -/
theorem BASE_toNat (i : Fin 512) : (BASE i).toNat = 2 ^ 15 * (i.val / 256) + baseMagnitude (i.val % 256) := by
  have hsign : (baseSign i).toNat = 2 ^ 15 * (i.val / 256) := by
    rw [baseSign_eq]
    split <;> rw [BitVec.toNat_ofNat] <;> omega
  have hmag : baseMagnitude (i.val % 256) < 2 ^ 15 := lt_of_le_of_lt (baseMagnitude_le _) (by decide)
  rw [BASE_eq_magnitude_or_sign, BitVec.toNat_or, ofNat_baseMagnitude_toNat, hsign, Nat.or_comm,
    Nat.two_pow_add_eq_or_of_lt hmag]

theorem BASE_toNat_le (i : Fin 512) : (BASE i).toNat ≤ 0xFC00 := by
  have hmag := baseMagnitude_le (i.val % 256)
  rw [BASE_toNat]
  omega

/-- Every shift of PACK leaves at most ten bits of the significand: there are 23 and the least shift is 13. -/
theorem shifted_sig_le (fb : F32) (i : Fin 512) : (f32Sig fb).toNat >>> (SHIFT i).toNat ≤ 0x3FF := by
  have hsig := (f32Sig fb).isLt
  have hpow : 2 ^ 13 ≤ 2 ^ (SHIFT i).toNat := Nat.pow_le_pow_right two_pos (SHIFT_bounds i).1
  calc (f32Sig fb).toNat >>> (SHIFT i).toNat = (f32Sig fb).toNat / 2 ^ (SHIFT i).toNat := Nat.shiftRight_eq_div_pow _ _
    _ ≤ (f32Sig fb).toNat / 2 ^ 13 := Nat.div_le_div_left hpow (by decide)
    _ ≤ 0x3FF := by omega

theorem packSum_le (fb : F32) : packSum fb ≤ 0xFFFF :=
  Nat.add_le_add (BASE_toNat_le _) (shifted_sig_le fb _)

/-- Settles O19: the sum of the rule is `packSum`, whose addends are at most `0xFC00` and `0x3FF`. -/
theorem packDeliversTheTableSum : Obligations.PackDeliversTheTableSum := by
  unfold Obligations.PackDeliversTheTableSum
  intro fb s exp sig sum
  have hsum : sum = packSum fb := congrArg ((BASE exp).toNat + ·) (BitVec.toNat_ushiftRight sig _)
  obtain ⟨hlo, hhi⟩ := SHIFT_bounds exp
  rw [hsum]
  exact ⟨exec_pack fb s, hlo, hhi, packSum_le fb⟩

end Sys2Proof.Proofs
end

section
/-! PROOFS. The family 42_unpack.md: the sum UNPACK delivers. -/

namespace Sys2Proof.Proofs

open Sys2Proof.Machine

/-! ### The two addends as numbers -/

/-- A shifted field loses nothing when its value fits the word. -/
theorem ofNat_shiftLeft_toNat {n k : Nat} (hfit : n * 2 ^ k < 2 ^ 32) :
    (BitVec.ofNat 32 n <<< k).toNat = n * 2 ^ k := by
  have hn : n < 2 ^ 32 := lt_of_le_of_lt (Nat.le_mul_of_pos_right n (Nat.two_pow_pos k)) hfit
  rw [BitVec.toNat_shiftLeft, BitVec.toNat_ofNat, Nat.mod_eq_of_lt hn, Nat.shiftLeft_eq, Nat.mod_eq_of_lt hfit]

theorem toNat_add_le {w : Nat} (x y : BitVec w) : (x + y).toNat ≤ x.toNat + y.toNat := by
  rw [BitVec.toNat_add]
  exact Nat.mod_le _ _

/-- With bit 23 cleared, the shifted index is a significand (40_lookup_tables.md R82). -/
theorem masked_shifted_index_toNat_lt {i : Nat} (hpos : 1 ≤ i) (hle : i ≤ 1023) :
    ((BitVec.ofNat 32 i <<< 13 <<< renormTurns i) &&& ~~~(0x00800000#32)).toNat < 2 ^ 23 :=
  Nat.lt_pow_two_of_testBit _ fun _ hn => masked_shifted_index_high_clear hpos hle hn

/-- A renormalized element has exponent field at most 112, for the loop makes at least one turn. -/
theorem renormalize_toNat_lt {i : Nat} (hpos : 1 ≤ i) (hle : i ≤ 1023) : (renormalize i).toNat < 113 * 2 ^ 23 := by
  obtain ⟨hone, hten⟩ := renormTurns_bounds hpos hle
  have hsig := masked_shifted_index_toNat_lt hpos hle
  have hfield : (BitVec.ofNat 32 (113 - renormTurns i) <<< 23).toNat = (113 - renormTurns i) * 2 ^ 23 :=
    ofNat_shiftLeft_toNat (by omega)
  rw [renormalize_eq_shifted_add hpos hle, accumulator_eq_exponent_field (by omega)]
  refine lt_of_le_of_lt (toNat_add_le _ _) ?_
  omega

/-- Every element of `MANT` has exponent field at most 112 and sign 0 (40_lookup_tables.md R81, R82). -/
theorem MANT_toNat_lt (i : Fin 2048) : (MANT i).toNat < 113 * 2 ^ 23 := by
  by_cases hplain : 1024 ≤ i.val
  · have hsig : (BitVec.ofNat 32 (i.val - 1024) <<< 13).toNat = (i.val - 1024) * 2 ^ 13 :=
      ofNat_shiftLeft_toNat (by omega)
    rw [MANT_of_1024_le hplain]
    refine lt_of_le_of_lt (toNat_add_le _ _) ?_
    rw [hsig, BitVec.toNat_ofNat]
    omega
  · by_cases hzero : i = 0
    · rw [hzero, MANT_zero]
      decide
    · have hpos : 1 ≤ i.val := Nat.one_le_iff_ne_zero.2 (Fin.val_ne_zero_iff.2 hzero)
      rw [MANT_of_le_1023 hpos (by omega)]
      exact renormalize_toNat_lt hpos (by omega)

/-- The largest element of `EXPT` is that of the negative infinities and NaNs (40_lookup_tables.md R84). -/
theorem EXPT_toNat_le (i : Fin 64) : (EXPT i).toNat ≤ 0xC7800000 := by
  have hfield {n : Nat} (hn : n ≤ 30) : (BitVec.ofNat 32 n <<< 23).toNat = n * 2 ^ 23 :=
    ofNat_shiftLeft_toNat (by omega)
  unfold EXPT
  split
  · decide
  split
  case isTrue hnormal =>
    rw [hfield hnormal]
    omega
  split
  · decide
  split
  · decide
  split
  case isTrue hnormal =>
    refine le_trans (toNat_add_le _ _) ?_
    rw [hfield (by omega), BitVec.toNat_ofNat]
    omega
  · decide

/-- The addition of UNPACK never wraps (42_unpack.md R124): the upper nine bits of the addends are at most
112 and 399, which add up to 511, and only the `MANT` element has bits below them. -/
theorem MANT_add_EXPT_lt (i : Fin 2048) (j : Fin 64) : (MANT i).toNat + (EXPT j).toNat < 2 ^ 32 := by
  have hmant := MANT_toNat_lt i
  have hexpt := EXPT_toNat_le j
  omega

theorem OFFS_eq_zero_or_1024 (i : Fin 64) : OFFS i = 0#16 ∨ OFFS i = 1024#16 :=
  ite_eq_or_eq _ _ _

/-- Settles O31: the index of the rule is `mantIndex`, and the addends are below `0x38800000` and at most `0xC7800000`. -/
theorem unpackDeliversTheTableSum : Obligations.UnpackDeliversTheTableSum := by
  unfold Obligations.UnpackDeliversTheTableSum
  intro h s exp sig
  exact ⟨OFFS_eq_zero_or_1024 exp, mantIndex h, rfl, exec_unpack h s, MANT_add_EXPT_lt (mantIndex h) exp⟩

end Sys2Proof.Proofs
end

section
/-! PROOFS. The family 43_codec_laws.md: the eight boundary pairs. -/

namespace Sys2Proof.Proofs

open Sys2Proof.Machine

/-- Eight table sums of 41_pack.md R100, evaluated. -/
theorem PACK_of_mem_boundaryPairs : ∀ p ∈ boundaryPairs, PACK p.1 = p.2 := by
  simp only [boundaryPairs, List.forall_mem_cons]
  refine ⟨?_, ?_, ?_, ?_, ?_, ?_, ?_, ?_, List.forall_mem_nil _⟩ <;> decide

/-- Eight table sums of 42_unpack.md R120, evaluated. No pair has a subnormal, so `renormalize` never runs. -/
theorem UNPACK_of_mem_boundaryPairs : ∀ p ∈ boundaryPairs, UNPACK p.2 = p.1 := by
  simp only [boundaryPairs, List.forall_mem_cons]
  refine ⟨?_, ?_, ?_, ?_, ?_, ?_, ?_, ?_, List.forall_mem_nil _⟩ <;> decide

/-- Settles O38: an operation delivers its table sum from every state, so only the sums of the eight words are computed. -/
theorem eightBoundaryPairs : Obligations.EightBoundaryPairs := by
  unfold Obligations.EightBoundaryPairs
  intro p hp s
  constructor
  · rw [exec_pack, PACK_of_mem_boundaryPairs p hp]
  · rw [exec_unpack, UNPACK_of_mem_boundaryPairs p hp]

end Sys2Proof.Proofs
end

section
/-! PROOFS. The family 30_encoding.md: the decoder and the encoder of the operation table. -/

namespace Sys2Proof.Proofs

open Sys2Proof.Machine

/-! ### The port word of a raw word -/

/-- The fields a 32-bit row cuts from a number make the whole number again (30_encoding.md R60). -/
theorem joinF32_bitField {v : Nat} (hv : v < 2 ^ 32) :
    joinF32 (bitField v 31 1) (bitField v 23 8) (bitField v 0 23) = BitVec.ofNat 32 v := by
  apply BitVec.eq_of_toNat_eq
  simp only [joinF32_toNat, bitField, BitVec.toNat_ofNat, Nat.shiftRight_eq_div_pow]
  omega

/-- The fields a 16-bit row cuts from a number make the whole number again (30_encoding.md R61). -/
theorem joinF16_bitField {v : Nat} (hv : v < 2 ^ 16) :
    joinF16 (bitField v 15 1) (bitField v 10 5) (bitField v 0 10) = BitVec.ofNat 16 v := by
  apply BitVec.eq_of_toNat_eq
  simp only [joinF16_toNat, bitField, BitVec.toNat_ofNat, Nat.shiftRight_eq_div_pow]
  omega

theorem portWordOf_32 {v : Nat} (hv : v < 2 ^ 32) :
    portWordOf { nbits := 32, value := v } = .ok (.f32In (BitVec.ofNat 32 v)) := by
  have hvalue : RawWord.valueOk { nbits := 32, value := v } = true := decide_eq_true hv
  rw [portWordOf, joinF32_bitField hv]
  simp [RawWord.widthOk, hvalue]

theorem portWordOf_16 {v : Nat} (hv : v < 2 ^ 16) :
    portWordOf { nbits := 16, value := v } = .ok (.f16In (BitVec.ofNat 16 v)) := by
  have hvalue : RawWord.valueOk { nbits := 16, value := v } = true := decide_eq_true hv
  rw [portWordOf, joinF16_bitField hv]
  simp [RawWord.widthOk, hvalue]

theorem portWordOf_of_not_widthOk {r : RawWord} (hwidth : r.widthOk = false) :
    portWordOf r = .error (.noPortOfWidth r.nbits) := by
  simp [portWordOf, hwidth]

theorem portWordOf_of_not_valueOk {r : RawWord} (hwidth : r.widthOk = true) (hvalue : r.valueOk = false) :
    portWordOf r = .error (.bitsAboveWidth r.nbits r.value) := by
  simp [portWordOf, hwidth, hvalue]

/-- Everything `portWordOf` accepts: a whole word of 32 bits, or one of 16 bits. -/
theorem portWordOf_cases {r : RawWord} {p : PortWord} (hp : portWordOf r = .ok p) :
    (∃ fb : F32, p = .f32In fb ∧ r = { nbits := 32, value := fb.toNat }) ∨
    (∃ h : F16, p = .f16In h ∧ r = { nbits := 16, value := h.toNat }) := by
  obtain ⟨nbits, value⟩ := r
  cases hwidth : RawWord.widthOk { nbits := nbits, value := value } with
  | false => rw [portWordOf_of_not_widthOk hwidth] at hp; cases hp
  | true =>
    cases hvalue : RawWord.valueOk { nbits := nbits, value := value } with
    | false => rw [portWordOf_of_not_valueOk hwidth hvalue] at hp; cases hp
    | true =>
      have hlt : value < 2 ^ nbits := (RawWord.valueOk_iff _).1 hvalue
      rcases (RawWord.widthOk_iff _).1 hwidth with h32 | h16
      · cases h32
        rw [portWordOf_32 hlt] at hp
        cases hp
        exact .inl ⟨_, rfl, by rw [BitVec.toNat_ofNat, Nat.mod_eq_of_lt hlt]⟩
      · cases h16
        rw [portWordOf_16 hlt] at hp
        cases hp
        exact .inr ⟨_, rfl, by rw [BitVec.toNat_ofNat, Nat.mod_eq_of_lt hlt]⟩

/-! ### Decoding -/

/-- The decoder answers what the port word of the raw word means (30_encoding.md R67). -/
theorem decodeRaw_of_ok {r : RawWord} {p : PortWord} (hp : portWordOf r = .ok p) : decodeRaw r = .ok (decode p) := by
  simp [decodeRaw, hp]

theorem decodeRaw_of_error {r : RawWord} {e : DecodeError} (he : portWordOf r = .error e) : decodeRaw r = .error e := by
  simp [decodeRaw, he]

/-- What the decoder answers is the operation of a port word, which the raw word has. -/
theorem exists_portWordOf_of_decodeRaw {r : RawWord} {i : Instr} (hi : decodeRaw r = .ok i) :
    ∃ p, portWordOf r = .ok p ∧ decode p = i := by
  cases hp : portWordOf r with
  | error e => rw [decodeRaw_of_error hp] at hi; cases hi
  | ok p =>
    rw [decodeRaw_of_ok hp] at hi
    cases hi
    exact ⟨p, rfl, rfl⟩

/-- The table's numbering and the raw word mean the same operations. -/
theorem decodeTableWord_eq_some_iff {nbits w : Nat} {i : Instr} :
    decodeTableWord nbits w = some i ↔ decodeRaw { nbits := nbits, value := w } = .ok i := by
  unfold decodeTableWord
  split <;> simp_all

theorem decodeTableWord_32 {v : Nat} (hv : v < 2 ^ 32) : decodeTableWord 32 v = some (.pack (BitVec.ofNat 32 v)) :=
  decodeTableWord_eq_some_iff.2 (decodeRaw_of_ok (portWordOf_32 hv))

theorem decodeTableWord_16 {v : Nat} (hv : v < 2 ^ 16) : decodeTableWord 16 v = some (.unpack (BitVec.ofNat 16 v)) :=
  decodeTableWord_eq_some_iff.2 (decodeRaw_of_ok (portWordOf_16 hv))

/-! ### Encoding -/

/-- The fields of a 32-bit row stand where the word itself has them, so the encoding is the word (30_encoding.md R60). -/
theorem encode_pack (fb : F32) : encode (.pack fb) = { nbits := 32, value := fb.toNat } := by
  rw [encode, ← joinF32_toNat, joinF32_fields]

/-- The fields of a 16-bit row stand where the word itself has them, so the encoding is the word (30_encoding.md R61). -/
theorem encode_unpack (h : F16) : encode (.unpack h) = { nbits := 16, value := h.toNat } := by
  rw [encode, ← joinF16_toNat, joinF16_fields]

theorem decodeRaw_encode (i : Instr) : decodeRaw (encode i) = .ok i := by
  cases i with
  | pack fb => rw [encode_pack, decodeRaw_of_ok (portWordOf_32 fb.isLt), decode, BitVec.ofNat_toNat, BitVec.setWidth_eq]
  | unpack h => rw [encode_unpack, decodeRaw_of_ok (portWordOf_16 h.isLt), decode, BitVec.ofNat_toNat, BitVec.setWidth_eq]

theorem encode_wf (i : Instr) : (encode i).wf = true := by
  rw [RawWord.wf_iff]
  cases i with
  | pack fb => exact ⟨.inl rfl, (Laws.EncodeWidth.pack fb).2⟩
  | unpack h => exact ⟨.inr rfl, (Laws.EncodeWidth.unpack h).2⟩

/-- The choice of port gives the operation back (30_encoding.md R67). -/
theorem decode_portOf (i : Instr) : decode (portOf i) = i := by
  cases i <;> rfl

/-- Settles O5: an encoding is the operand word itself under its width, and the decoder joins its fields again. -/
theorem decodeInvertsEncode : Obligations.DecodeInvertsEncode := by
  unfold Obligations.DecodeInvertsEncode
  exact fun i _ => ⟨decodeRaw_encode i, encode_wf i, decode_portOf i⟩

/-- Every operation from every state completes, with its own result on its output port (30_encoding.md R68). -/
theorem exec_completes (i : Instr) (s : State) : ∃ t, exec i s = .next t ∧ t.resultPort i = opResult i := by
  cases i with
  | pack fb => exact ⟨_, exec_pack fb s, rfl⟩
  | unpack h => exact ⟨_, exec_unpack h s, rfl⟩

/-- Settles O3: a number below the word's range decodes to the operation of that word, and every operation completes. -/
theorem everyOperandWordIsLegal : Obligations.EveryOperandWordIsLegal := by
  unfold Obligations.EveryOperandWordIsLegal
  exact ⟨fun _ => decodeTableWord_32, fun _ => decodeTableWord_16, fun p s => exec_completes (decode p) s⟩

/-- Settles O4: the two checks of `portWordOf`, in their order. -/
theorem otherRawWordsAreRejectedByName : Obligations.OtherRawWordsAreRejectedByName := by
  unfold Obligations.OtherRawWordsAreRejectedByName
  refine ⟨fun n v h32 h16 => ?_, fun v hv => ?_, fun v hv => ?_⟩
  · have hwidth : RawWord.widthOk { nbits := n, value := v } = false := by simp [RawWord.widthOk, h32, h16]
    exact decodeRaw_of_error (portWordOf_of_not_widthOk hwidth)
  · exact decodeRaw_of_error (portWordOf_of_not_valueOk rfl (decide_eq_false (Nat.not_lt.2 hv)))
  · exact decodeRaw_of_error (portWordOf_of_not_valueOk rfl (decide_eq_false (Nat.not_lt.2 hv)))

/-- Settles O6: an accepted raw word holds its operand word whole, and so does the encoding. -/
theorem encodeInvertsDecode : Obligations.EncodeInvertsDecode := by
  unfold Obligations.EncodeInvertsDecode
  intro r i hi
  obtain ⟨p, hp, rfl⟩ := exists_portWordOf_of_decodeRaw hi
  obtain ⟨fb, rfl, rfl⟩ | ⟨h, rfl, rfl⟩ := portWordOf_cases hp
  · exact encode_pack fb
  · exact encode_unpack h

/-- Settles O7: four numbers below the range of their words. -/
theorem sampleWordsDecode : Obligations.SampleWordsDecode := by
  unfold Obligations.SampleWordsDecode
  exact ⟨decodeTableWord_32 (by decide), decodeTableWord_32 (by decide), decodeTableWord_16 (by decide),
    decodeTableWord_16 (by decide)⟩

end Sys2Proof.Proofs
end

section
/-! PROOFS. The families 10_state.md and 60_exceptions.md: what a step and a run of steps do. -/

namespace Sys2Proof.Proofs

open Sys2Proof.Machine

/-! ### One operation -/

/-- Settles O48: an operation is an update of its own two ports. -/
theorem operationsChangeOnlyTheirOwnPorts : Obligations.OperationsChangeOnlyTheirOwnPorts := by
  unfold Obligations.OperationsChangeOnlyTheirOwnPorts
  constructor
  · intro fb s t ht
    cases ht
    exact ⟨rfl, rfl, rfl, rfl⟩
  · intro h s t ht
    cases ht
    exact ⟨rfl, rfl, rfl, rfl⟩

/-- Settles O56: the updates of the two converters' ports commute, and each result is that of its own operand. -/
theorem convertersDoNotInteract : Obligations.ConvertersDoNotInteract := by
  unfold Obligations.ConvertersDoNotInteract
  intro fb h s
  refine ⟨_, _, exec_pack fb s, exec_unpack h _, exec_unpack h s, ?_, rfl, rfl⟩
  rw [exec_pack, driveBoth, State.onF32_onF16_comm]

/-- The words the host is going to drive have no part in an operation (log 1). -/
theorem exec_driveNext {i : Instr} {s t : State} (ws : List PortWord) (hs : exec i s = .next t) :
    exec i (s.driveNext ws) = .next (t.driveNext ws) := by
  cases i with
  | pack fb => cases hs; rfl
  | unpack h => cases hs; rfl

/-! ### One step -/

theorem step_of_pending_nil {s : State} (hp : s.pending = []) : step s = .next s := by
  simp [step, State.takePending, hp]

theorem step_of_pending_cons {s : State} {w : PortWord} {rest : List PortWord} (hp : s.pending = w :: rest) :
    step s = exec (decode w) { s with pending := rest } := by
  simp [step, State.takePending, hp]

/-- The word driven next is the one the next step runs (log 1). -/
theorem step_driveNext_cons (s : State) (w : PortWord) (ws : List PortWord) :
    step (s.driveNext (w :: ws)) = exec (decode w) (s.driveNext ws) :=
  step_of_pending_cons rfl

theorem withFetchWord_of_ok {s : State} {nbits w : Nat} {p : PortWord}
    (hp : portWordOf { nbits := nbits, value := w } = .ok p) : s.withFetchWord nbits w = s.driveNext [p] := by
  simp [State.withFetchWord, hp]

/-- Settles O49: `takePending` gives the first pending word, which is the port word `withFetchWord` places. -/
theorem stepRunsTheDrivenOperand : Obligations.StepRunsTheDrivenOperand := by
  unfold Obligations.StepRunsTheDrivenOperand
  refine ⟨fun _ _ _ => step_of_pending_cons, fun _ => step_of_pending_nil, fun s nbits w i hi => ?_⟩
  obtain ⟨p, hp, rfl⟩ := exists_portWordOf_of_decodeRaw (decodeTableWord_eq_some_iff.1 hi)
  rw [withFetchWord_of_ok hp, step_driveNext_cons]
  rfl

/-- The state after a step: `step` as a function, for a step always completes. -/
def stepNext (s : State) : State :=
  match s.pending with
  | [] => s
  | .f32In fb :: rest => ({ s with pending := rest } : State).onF32 fb (PACK fb)
  | .f16In h :: rest => ({ s with pending := rest } : State).onF16 h (UNPACK h)

theorem stepNext_nil {s : State} (hp : s.pending = []) : stepNext s = s := by
  simp [stepNext, hp]

theorem stepNext_f32In {s : State} {fb : F32} {rest : List PortWord} (hp : s.pending = .f32In fb :: rest) :
    stepNext s = ({ s with pending := rest } : State).onF32 fb (PACK fb) := by
  simp [stepNext, hp]

theorem stepNext_f16In {s : State} {h : F16} {rest : List PortWord} (hp : s.pending = .f16In h :: rest) :
    stepNext s = ({ s with pending := rest } : State).onF16 h (UNPACK h) := by
  simp [stepNext, hp]

/-- Every step completes, in the state `stepNext` names. -/
theorem step_eq_stepNext (s : State) : step s = .next (stepNext s) := by
  rcases hp : s.pending with _ | ⟨fb | h, rest⟩
  · rw [step_of_pending_nil hp, stepNext_nil hp]
  · rw [step_of_pending_cons hp, stepNext_f32In hp]
    rfl
  · rw [step_of_pending_cons hp, stepNext_f16In hp]
    rfl

/-- Settles O50: no constructor of `Fault`, and both `exec` and `step` answer a next state everywhere. -/
theorem nothingEverStops : Obligations.NothingEverStops := by
  unfold Obligations.NothingEverStops
  exact ⟨nofun, exec_completes, fun s => ⟨_, step_eq_stepNext s⟩⟩

/-! ### Settled states -/

/-- Settles O51: the fields of the reset state as they are defined. -/
theorem portsAtReset : Obligations.PortsAtReset := by
  unfold Obligations.PortsAtReset
  exact ⟨rfl, rfl, rfl, rfl, rfl⟩

/-- Settles O52: both converters take the zero word to the zero word. -/
theorem resetIsSettled : Obligations.ResetIsSettled := by
  unfold Obligations.ResetIsSettled
  decide

/-- Settles O53: a step drives one input port, with its result on the output port, and leaves the other pair as it was. -/
theorem everyStepKeepsTheOutputsSettled : Obligations.EveryStepKeepsTheOutputsSettled := by
  unfold Obligations.EveryStepKeepsTheOutputsSettled
  rintro s t ⟨hpack, hunpack⟩ hs
  obtain ⟨-, rfl⟩ | ⟨fb, rest, -, rfl⟩ | ⟨h, rest, -, rfl⟩ := step_cases hs
  · exact ⟨hpack, hunpack⟩
  · exact ⟨rfl, hunpack⟩
  · exact ⟨hpack, rfl⟩

/-! ### Runs -/

/-- A run goes on from the state its first step answers. -/
theorem run_succ_of_step {s t : State} (n : Nat) (hs : step s = .next t) : core.run (n + 1) s = core.run n t := by
  have hcore : core.step s = .next t := hs
  simp only [Host.Core.run, hcore]

/-- Every run completes: it is `stepNext` iterated. -/
theorem run_eq_iterate (n : Nat) (s : State) : core.run n s = .next (stepNext^[n] s) := by
  induction n generalizing s with
  | zero => rfl
  | succ n ih =>
    rw [run_succ_of_step n (step_eq_stepNext s), ih, Function.iterate_succ_apply]

theorem iterate_stepNext_settled (n : Nat) {s : State} (hs : s.Settled) : (stepNext^[n] s).Settled := by
  induction n generalizing s with
  | zero => exact hs
  | succ n ih => exact ih (everyStepKeepsTheOutputsSettled s _ hs (step_eq_stepNext s))

/-- The first `n` pending words are driven in order, and nothing else reaches an input port (log 1). -/
theorem iterate_stepNext_inputs (n : Nat) (s : State) :
    (stepNext^[n] s).pending = s.pending.drop n ∧
    (stepNext^[n] s).f32In = lastF32In (s.pending.take n) s.f32In ∧
    (stepNext^[n] s).f16In = lastF16In (s.pending.take n) s.f16In := by
  induction n generalizing s with
  | zero => exact ⟨rfl, rfl, rfl⟩
  | succ n ih =>
    obtain ⟨hpending, h32, h16⟩ := ih (stepNext s)
    rw [Function.iterate_succ_apply, hpending, h32, h16]
    rcases hp : s.pending with _ | ⟨fb | h, rest⟩
    · simp [stepNext_nil hp, hp]
    · simp [stepNext_f32In hp, lastF32In, lastF16In]
    · simp [stepNext_f16In hp, lastF32In, lastF16In]

/-- Settles O54: a run keeps the outputs settled, so they are the results of the last words driven. -/
theorem everyRunDeliversTheLastOperands : Obligations.EveryRunDeliversTheLastOperands := by
  unfold Obligations.EveryRunDeliversTheLastOperands
  intro n s hs
  have hrun := run_eq_iterate n s
  have hsettled := iterate_stepNext_settled n hs
  obtain ⟨hpending, h32, h16⟩ := iterate_stepNext_inputs n s
  exact ⟨⟨_, hrun, hsettled⟩, _, hrun, hpending, h32, h16, hsettled.1, hsettled.2⟩

/-- Settles O55: runs and operations complete from every state, and the output port carries `opResult`, which names no
state. -/
theorem resultsIgnoreHistory : Obligations.ResultsIgnoreHistory := by
  unfold Obligations.ResultsIgnoreHistory
  intro i s t n m
  obtain ⟨s', hs', hsres⟩ := exec_completes i (stepNext^[n] s)
  obtain ⟨t', ht', htres⟩ := exec_completes i (stepNext^[m] t)
  exact ⟨_, _, s', t', run_eq_iterate n s, run_eq_iterate m t, hs', ht', hsres.trans htres.symm⟩

end Sys2Proof.Proofs
end

section
/-! PROOFS. The family 60_exceptions.md: many codecs under a schedule. -/

namespace Sys2Proof.Proofs

open Sys2Proof.Machine

theorem stepInstance_eq_modify (k : Nat) (cs : List State) : stepInstance k cs = .next (cs.modify k stepNext) := by
  unfold stepInstance
  cases hk : cs[k]? with
  | none => simp [List.modify_eq_self (List.getElem?_eq_none_iff.1 hk)]
  | some s => simp [step_eq_stepNext, List.modify_eq_set_getElem?, hk]

/-- The collection a schedule ends in: `stepInstances` as a function, for every schedule runs to its end. -/
def scheduled (ks : List Nat) (cs : List State) : List State := ks.foldl (fun ds k => ds.modify k stepNext) cs

theorem stepInstances_eq_scheduled (ks : List Nat) (cs : List State) :
    stepInstances ks cs = .next (scheduled ks cs) := by
  induction ks generalizing cs with
  | nil => rfl
  | cons k ks ih => simp [stepInstances, stepInstance_eq_modify, ih, scheduled]

theorem length_scheduled (ks : List Nat) (cs : List State) : (scheduled ks cs).length = cs.length := by
  induction ks generalizing cs with
  | nil => rfl
  | cons k ks ih => rw [scheduled, List.foldl_cons, ← scheduled, ih, List.length_modify]

/-- A codec is left where its own steps take it, as many as the schedule has for it. -/
theorem getElem?_scheduled (ks : List Nat) (cs : List State) (k : Nat) :
    (scheduled ks cs)[k]? = cs[k]?.map stepNext^[ks.count k] := by
  induction ks generalizing cs with
  | nil => simp [scheduled]
  | cons j ks ih =>
    rw [scheduled, List.foldl_cons, ← scheduled, ih, List.getElem?_modify, List.count_cons]
    by_cases hjk : j = k
    · simp [hjk, Function.comp_def]
    · simp [hjk]

/-- Settles O57: what a schedule does to a codec depends only on how often it names it, which permuting the
schedule keeps. -/
theorem schedulesOfInstancesDoNotMatter : Obligations.SchedulesOfInstancesDoNotMatter := by
  unfold Obligations.SchedulesOfInstancesDoNotMatter
  intro ks js cs hperm
  have hsame : scheduled js cs = scheduled ks cs := by
    apply List.ext_getElem?
    intro k
    rw [getElem?_scheduled, getElem?_scheduled, hperm.count_eq]
  refine ⟨scheduled ks cs, stepInstances_eq_scheduled ks cs, hsame ▸ stepInstances_eq_scheduled js cs,
    length_scheduled ks cs, fun k hk => ?_⟩
  rw [getElem?_scheduled, List.count_eq_zero_of_not_mem hk]
  simp

end Sys2Proof.Proofs
end

section
/-! PROOFS. The family 70_reset_and_hazards.md: the lazy realisation of the tables, which the spec does not take (log 8). -/

namespace Sys2Proof.Proofs

open Sys2Proof.Machine

theorem lazyStep_startBuild_absent {b : Nat} {s : LazyState} (hs : s.phase = .absent) :
    lazyStep (.startBuild b) s = .next { s with phase := .building b } := by
  simp [lazyStep, hs]

theorem lazyStep_startBuild_idle {b : Nat} {s : LazyState} (hs : s.phase ≠ .absent) :
    lazyStep (.startBuild b) s = .next s := by
  simp [lazyStep, hs]

theorem lazyStep_finishBuild_own {b : Nat} {s : LazyState} (hs : s.phase = .building b) :
    lazyStep (.finishBuild b) s = .next { s with phase := .built } := by
  simp [lazyStep, hs]

theorem lazyStep_finishBuild_idle {b : Nat} {s : LazyState} (hs : s.phase ≠ .building b) :
    lazyStep (.finishBuild b) s = .next s := by
  simp [lazyStep, hs]

theorem lazyStep_evaluate_not_built {i : Instr} {s : LazyState} (hs : s.phase ≠ .built) :
    lazyStep (.evaluate i) s = .fault .lookupBeforeBuilt := by
  simp [lazyStep, hs]

theorem lazyStep_evaluate_built {i : Instr} {s : LazyState} {c : State} (hs : s.phase = .built)
    (hc : exec i s.codec = .next c) : lazyStep (.evaluate i) s = .next { s with codec := c } := by
  simp [lazyStep, hs, hc]

theorem lazyRun_cons_of_next {e : LazyEvent} {s t : LazyState} (es : List LazyEvent) (hs : lazyStep e s = .next t) :
    lazyRun (e :: es) s = lazyRun es t := by
  simp [lazyRun, hs]

/-- On built tables a run of events is the codec's run of the operations among them, and the tables stay built. -/
theorem lazyRun_of_built (es : List LazyEvent) {s : LazyState} (hs : s.phase = .built) : ∃ c : State,
    lazyRun es s = .next { phase := .built, codec := c } ∧
    core.run (es.filterMap LazyEvent.operation?).length
      (s.codec.driveNext ((es.filterMap LazyEvent.operation?).map portOf)) = .next c := by
  induction es generalizing s with
  | nil => exact ⟨s.codec, by rw [lazyRun, ← hs], rfl⟩
  | cons e es ih =>
    cases e with
    | startBuild b =>
      rw [lazyRun_cons_of_next es (lazyStep_startBuild_idle (by simp [hs]))]
      exact ih hs
    | finishBuild b =>
      rw [lazyRun_cons_of_next es (lazyStep_finishBuild_idle (by simp [hs]))]
      exact ih hs
    | evaluate i =>
      obtain ⟨d, hd, -⟩ := exec_completes i s.codec
      obtain ⟨c, hlazy, hcodec⟩ := ih (s := { s with codec := d }) hs
      have hstep : step (s.codec.driveNext (portOf i :: (es.filterMap LazyEvent.operation?).map portOf)) =
          .next (d.driveNext ((es.filterMap LazyEvent.operation?).map portOf)) := by
        rw [step_driveNext_cons, decode_portOf, exec_driveNext _ hd]
      refine ⟨c, ?_, ?_⟩
      · rw [lazyRun_cons_of_next es (lazyStep_evaluate_built hs hd), hlazy]
      · rw [List.filterMap_cons_some (LazyEvent.operation?_evaluate i), List.map_cons, List.length_cons,
          run_succ_of_step _ hstep, hcodec]

/-- Settles O60: the events phase by phase, and the run on built tables. -/
theorem lazyTablesOnceBuiltAreTheCodec : Obligations.LazyTablesOnceBuiltAreTheCodec := by
  unfold Obligations.LazyTablesOnceBuiltAreTheCodec
  refine ⟨fun i s hs => lazyStep_evaluate_not_built hs, fun b s hs => ?absent, fun b s hs => ?building,
    fun b s hs => ?built, fun es s hs => lazyRun_of_built es hs⟩
  case absent =>
    exact ⟨lazyStep_startBuild_absent hs, lazyStep_finishBuild_idle (by simp [hs])⟩
  case building =>
    exact ⟨lazyStep_finishBuild_own hs, fun c =>
      ⟨lazyStep_startBuild_idle (by simp [hs]), fun hc => lazyStep_finishBuild_idle (by simp [hs, hc.symm])⟩⟩
  case built =>
    exact ⟨lazyStep_startBuild_idle (by simp [hs]), lazyStep_finishBuild_idle (by simp [hs])⟩

end Sys2Proof.Proofs
end

section
/-! PROOFS. The family 30_encoding.md: networks of converters, one line for each (R71). -/

namespace Sys2Proof.Proofs

open Sys2Proof.Machine

/-! ### Scopes and bindings -/

/-- How many bits a word of either format has. -/
def valueWidth : Value → Nat
  | .f16 _ => 16
  | .f32 _ => 32

/-- The scope a list of bindings is checked against: its names with the widths of their words. -/
def scopeOf (env : List (Nat × Value)) : List (Nat × Nat) := env.map fun b => (b.1, valueWidth b.2)

theorem lookup_scopeOf (env : List (Nat × Value)) (n : Nat) : (scopeOf env).lookup n = (env.lookup n).map valueWidth := by
  induction env with
  | nil => rfl
  | cons b env ih =>
    obtain ⟨m, v⟩ := b
    rw [scopeOf, List.map_cons, List.lookup_cons, List.lookup_cons, ← scopeOf, ih]
    cases n == m <;> rfl

theorem networkOk_cons {scope : List (Nat × Nat)} {l : Line} {ls : List Line} :
    networkOk scope (l :: ls) = true ↔ l.ok scope = true ∧ networkOk ((l.dst, l.dstWidth) :: scope) ls = true := by
  rw [networkOk, Bool.and_eq_true]

theorem ok_pack_iff {scope : List (Nat × Nat)} {d : Nat} {src : Src 32} :
    (Line.pack d src).ok scope = true ↔ src.inScope scope = true ∧ scope.lookup d = none := by
  rw [Line.ok, Bool.and_eq_true, Option.isNone_iff_eq_none, Line.dst]

theorem ok_unpack_iff {scope : List (Nat × Nat)} {d : Nat} {src : Src 16} :
    (Line.unpack d src).ok scope = true ↔ src.inScope scope = true ∧ scope.lookup d = none := by
  rw [Line.ok, Bool.and_eq_true, Option.isNone_iff_eq_none, Line.dst]

theorem dst_fresh_of_ok {scope : List (Nat × Nat)} {l : Line} (hok : l.ok scope = true) : scope.lookup l.dst = none := by
  cases l with
  | pack d src => exact (ok_pack_iff.1 hok).2
  | unpack d src => exact (ok_unpack_iff.1 hok).2

/-- A literal is in every scope; a wire is where the scope has its name with the width asked for. -/
theorem inScope_wire_iff {w n : Nat} {scope : List (Nat × Nat)} :
    (Src.wire n : Src w).inScope scope = true ↔ scope.lookup n = some w := by
  simp [Src.inScope]

theorem read32_isSome {env : List (Nat × Value)} {src : Src 32} (hsrc : src.inScope (scopeOf env) = true) :
    ∃ w, src.read32 env = some w := by
  cases src with
  | word bits => exact ⟨bits, rfl⟩
  | wire n =>
    rw [inScope_wire_iff, lookup_scopeOf, Option.map_eq_some_iff] at hsrc
    obtain ⟨v, hv, hwidth⟩ := hsrc
    cases v with
    | f16 w => cases hwidth
    | f32 w => exact ⟨w, by simp [Src.read32, hv]⟩

theorem read16_isSome {env : List (Nat × Value)} {src : Src 16} (hsrc : src.inScope (scopeOf env) = true) :
    ∃ w, src.read16 env = some w := by
  cases src with
  | word bits => exact ⟨bits, rfl⟩
  | wire n =>
    rw [inScope_wire_iff, lookup_scopeOf, Option.map_eq_some_iff] at hsrc
    obtain ⟨v, hv, hwidth⟩ := hsrc
    cases v with
    | f16 w => exact ⟨w, by simp [Src.read16, hv]⟩
    | f32 w => cases hwidth

/-- A line in order asks for an operation, whose result has the width the line declares (30_encoding.md R72). -/
theorem instr?_isSome {env : List (Nat × Value)} {l : Line} (hok : l.ok (scopeOf env) = true) :
    ∃ i, l.instr? env = some i ∧ valueWidth (opResult i) = l.dstWidth := by
  cases l with
  | pack d src =>
    obtain ⟨w, hw⟩ := read32_isSome (ok_pack_iff.1 hok).1
    exact ⟨.pack w, by simp [Line.instr?, hw], rfl⟩
  | unpack d src =>
    obtain ⟨w, hw⟩ := read16_isSome (ok_unpack_iff.1 hok).1
    exact ⟨.unpack w, by simp [Line.instr?, hw], rfl⟩

/-- An operation is asked for by the words of the names in scope alone. -/
theorem instr?_congr {scope : List (Nat × Nat)} {env fnv : List (Nat × Value)} {l : Line} (hok : l.ok scope = true)
    (hagree : ∀ n, scope.lookup n ≠ none → env.lookup n = fnv.lookup n) : l.instr? env = l.instr? fnv := by
  cases l with
  | pack d src =>
    have hsrc := (ok_pack_iff.1 hok).1
    cases src with
    | word bits => rfl
    | wire n => simp only [Line.instr?, Src.read32, hagree n (by simp [inScope_wire_iff.1 hsrc])]
  | unpack d src =>
    have hsrc := (ok_unpack_iff.1 hok).1
    cases src with
    | word bits => rfl
    | wire n => simp only [Line.instr?, Src.read16, hagree n (by simp [inScope_wire_iff.1 hsrc])]

/-! ### Evaluation -/

/-- The line's name is bound to the result of its operation on the word its source has in the bindings. -/
def BoundIn (env : List (Nat × Value)) (l : Line) : Prop :=
  ∃ i : Instr, l.instr? env = some i ∧ env.lookup l.dst = some (opResult i)

/-- Bindings that keep every binding of others. -/
def Extends (fnv env : List (Nat × Value)) : Prop := ∀ n, env.lookup n ≠ none → fnv.lookup n = env.lookup n

theorem lookup_scopeOf_ne_none {env : List (Nat × Value)} {n : Nat} :
    (scopeOf env).lookup n ≠ none ↔ env.lookup n ≠ none := by
  rw [lookup_scopeOf, Ne, Option.map_eq_none_iff]

/-- A fresh binding keeps the earlier ones. -/
theorem extends_cons {env : List (Nat × Value)} {n : Nat} (v : Value) (hfresh : env.lookup n = none) :
    Extends ((n, v) :: env) env := by
  intro m hm
  have hne : m ≠ n := fun h => hm (h ▸ hfresh)
  rw [List.lookup_cons, beq_false_of_ne hne]

theorem Extends.trans {a b c : List (Nat × Value)} (hab : Extends a b) (hbc : Extends b c) : Extends a c := by
  intro n hn
  rw [hab n (by rwa [hbc n hn]), hbc n hn]

/-- Lines in order after the names of `env` evaluate; their names are bound after those of `env`, each to its line's
result. -/
theorem evalNetwork_of_networkOk {ls : List Line} {env : List (Nat × Value)} (hok : networkOk (scopeOf env) ls = true) :
    ∃ fnv, evalNetwork env ls = some fnv ∧ fnv.map Prod.fst = (ls.map Line.dst).reverse ++ env.map Prod.fst ∧
      Extends fnv env ∧ ∀ l ∈ ls, BoundIn fnv l := by
  induction ls generalizing env with
  | nil => exact ⟨env, rfl, rfl, fun _ _ => rfl, fun _ hl => absurd hl List.not_mem_nil⟩
  | cons l ls ih =>
    obtain ⟨hl, hls⟩ := networkOk_cons.1 hok
    obtain ⟨i, hi, hwidth⟩ := instr?_isSome hl
    rw [← hwidth] at hls
    obtain ⟨fnv, heval, hnames, hext, hbound⟩ := ih (env := (l.dst, opResult i) :: env) hls
    have hfresh : env.lookup l.dst = none := by
      simpa [lookup_scopeOf] using dst_fresh_of_ok hl
    have hextEnv : Extends fnv env := hext.trans (extends_cons _ hfresh)
    have hhead : BoundIn fnv l := by
      refine ⟨i, ?_, ?_⟩
      · rw [← hi]
        exact instr?_congr hl fun n hn => hextEnv n (lookup_scopeOf_ne_none.1 hn)
      · rw [hext _ (by simp), List.lookup_cons, beq_self_eq_true]
    refine ⟨fnv, by simp only [evalNetwork, hi, heval], by simp [hnames], hextEnv, ?_⟩
    exact List.forall_mem_cons.2 ⟨hhead, hbound⟩

/-- Settles O58: lines in order from no bindings at all. -/
theorem networksInOrderEvaluate : Obligations.NetworksInOrderEvaluate := by
  unfold Obligations.NetworksInOrderEvaluate
  intro ls hok
  obtain ⟨env, heval, hnames, -, hbound⟩ := evalNetwork_of_networkOk (env := []) hok
  exact ⟨env, heval, by simpa using hnames, hbound⟩

/-! ### The order of the lines -/

/-- Bindings in which each of the lines has its result agree on the lines' names: the sources of a line in order are names
the two have already been seen to agree on. -/
theorem lookup_dst_eq_of_boundIn {ls : List Line} {scope : List (Nat × Nat)} {env fnv : List (Nat × Value)}
    (hok : networkOk scope ls = true) (hagree : ∀ n, scope.lookup n ≠ none → env.lookup n = fnv.lookup n)
    (henv : ∀ l ∈ ls, BoundIn env l) (hfnv : ∀ l ∈ ls, BoundIn fnv l) :
    ∀ l ∈ ls, env.lookup l.dst = fnv.lookup l.dst := by
  induction ls generalizing scope with
  | nil => exact fun _ hl => absurd hl List.not_mem_nil
  | cons l ls ih =>
    obtain ⟨hl, hls⟩ := networkOk_cons.1 hok
    obtain ⟨hbe, henv⟩ := List.forall_mem_cons.1 henv
    obtain ⟨hbf, hfnv⟩ := List.forall_mem_cons.1 hfnv
    have hhead : env.lookup l.dst = fnv.lookup l.dst := by
      obtain ⟨i, hi, hri⟩ := hbe
      obtain ⟨j, hj, hrj⟩ := hbf
      have hij : some i = some j := by rw [← hi, ← hj, instr?_congr hl hagree]
      rw [hri, hrj, Option.some.inj hij]
    refine List.forall_mem_cons.2 ⟨hhead, ih hls (fun n hn => ?_) henv hfnv⟩
    by_cases hdst : n = l.dst
    · rw [hdst, hhead]
    · rw [List.lookup_cons, beq_false_of_ne hdst] at hn
      exact hagree n hn

theorem lookup_eq_none_of_not_mem {env : List (Nat × Value)} {n : Nat} (hn : n ∉ env.map Prod.fst) :
    env.lookup n = none := by
  rw [List.lookup_eq_none_iff]
  intro b hb
  exact bne_iff_ne.2 fun h => hn (List.mem_map.2 ⟨b, hb, h.symm⟩)

/-- Settles O59: a name no line binds is in neither list of bindings, and on the others the two agree. -/
theorem lineOrderHasNoOtherMeaning : Obligations.LineOrderHasNoOtherMeaning := by
  unfold Obligations.LineOrderHasNoOtherMeaning
  intro ls ms hperm hls hms
  obtain ⟨env, henv, hnames, hbound⟩ := networksInOrderEvaluate ls hls
  obtain ⟨fnv, hfnv, hnames', hbound'⟩ := networksInOrderEvaluate ms hms
  refine ⟨env, fnv, henv, hfnv, fun n => ?_⟩
  by_cases hn : n ∈ ls.map Line.dst
  · obtain ⟨l, hl, rfl⟩ := List.mem_map.1 hn
    exact lookup_dst_eq_of_boundIn (scope := []) hls (fun _ h => absurd rfl h) hbound
      (fun l hl => hbound' l (hperm.mem_iff.1 hl)) l hl
  · have hn' : n ∉ ms.map Line.dst := fun h => hn ((hperm.map _).mem_iff.2 h)
    rw [lookup_eq_none_of_not_mem (by rwa [hnames, List.mem_reverse]),
      lookup_eq_none_of_not_mem (by rwa [hnames', List.mem_reverse])]

end Sys2Proof.Proofs
end

section
/-! PROOFS. The families 00_scope.md and 30_encoding.md: the fields of joined words, and the value classes. -/

namespace Sys2Proof.Proofs

open Sys2Proof.Machine

/-! ### The fields of a joined word -/

@[simp] theorem f32Sign_joinF32 (s : BitVec 1) (E : BitVec 8) (m : BitVec 23) : f32Sign (joinF32 s E m) = s := by
  have hE := E.isLt
  have hm := m.isLt
  apply BitVec.eq_of_toNat_eq
  rw [f32Sign_toNat, joinF32_toNat]
  omega

@[simp] theorem f32Exp_joinF32 (s : BitVec 1) (E : BitVec 8) (m : BitVec 23) : f32Exp (joinF32 s E m) = E := by
  have hE := E.isLt
  have hm := m.isLt
  apply BitVec.eq_of_toNat_eq
  rw [f32Exp_toNat, joinF32_toNat]
  omega

@[simp] theorem f32Sig_joinF32 (s : BitVec 1) (E : BitVec 8) (m : BitVec 23) : f32Sig (joinF32 s E m) = m := by
  have hm := m.isLt
  apply BitVec.eq_of_toNat_eq
  rw [f32Sig_toNat, joinF32_toNat]
  omega

@[simp] theorem f16Sign_joinF16 (s : BitVec 1) (E : BitVec 5) (m : BitVec 10) : f16Sign (joinF16 s E m) = s := by
  have hE := E.isLt
  have hm := m.isLt
  apply BitVec.eq_of_toNat_eq
  rw [f16Sign_toNat, joinF16_toNat]
  omega

@[simp] theorem f16Exp_joinF16 (s : BitVec 1) (E : BitVec 5) (m : BitVec 10) : f16Exp (joinF16 s E m) = E := by
  have hE := E.isLt
  have hm := m.isLt
  apply BitVec.eq_of_toNat_eq
  rw [f16Exp_toNat, joinF16_toNat]
  omega

@[simp] theorem f16Sig_joinF16 (s : BitVec 1) (E : BitVec 5) (m : BitVec 10) : f16Sig (joinF16 s E m) = m := by
  have hm := m.isLt
  apply BitVec.eq_of_toNat_eq
  rw [f16Sig_toNat, joinF16_toNat]
  omega

/-- A binary32 word is determined by its fields. -/
theorem f32_ext {a b : F32} (hs : f32Sign a = f32Sign b) (hE : f32Exp a = f32Exp b) (hm : f32Sig a = f32Sig b) :
    a = b := by
  rw [← joinF32_fields a, ← joinF32_fields b, hs, hE, hm]

/-! ### The value classes -/

theorem classOf_eq_zero_iff {E maxE m : Nat} : classOf E maxE m = .zero ↔ E = 0 ∧ m = 0 := by
  unfold classOf
  split_ifs <;> simp <;> omega

theorem classOf_eq_subnormal_iff {E maxE m : Nat} : classOf E maxE m = .subnormal ↔ E = 0 ∧ m ≠ 0 := by
  unfold classOf
  split_ifs <;> simp <;> omega

theorem classOf_eq_normal_iff {E maxE m : Nat} : classOf E maxE m = .normal ↔ E ≠ 0 ∧ E ≠ maxE := by
  unfold classOf
  split_ifs <;> simp <;> omega

theorem classOf_eq_infinity_iff {E maxE m : Nat} (hmax : maxE ≠ 0) :
    classOf E maxE m = .infinity ↔ E = maxE ∧ m = 0 := by
  unfold classOf
  split_ifs <;> simp <;> omega

theorem classOf_eq_nan_iff {E maxE m : Nat} (hmax : maxE ≠ 0) : classOf E maxE m = .nan ↔ E = maxE ∧ m ≠ 0 := by
  unfold classOf
  split_ifs <;> simp <;> omega

theorem class32_eq_zero_iff {fb : F32} : class32 fb = .zero ↔ (f32Exp fb).toNat = 0 ∧ (f32Sig fb).toNat = 0 :=
  classOf_eq_zero_iff

theorem class32_eq_subnormal_iff {fb : F32} :
    class32 fb = .subnormal ↔ (f32Exp fb).toNat = 0 ∧ (f32Sig fb).toNat ≠ 0 :=
  classOf_eq_subnormal_iff

theorem class32_eq_normal_iff {fb : F32} :
    class32 fb = .normal ↔ (f32Exp fb).toNat ≠ 0 ∧ (f32Exp fb).toNat ≠ 255 :=
  classOf_eq_normal_iff

theorem class32_eq_infinity_iff {fb : F32} :
    class32 fb = .infinity ↔ (f32Exp fb).toNat = 255 ∧ (f32Sig fb).toNat = 0 :=
  classOf_eq_infinity_iff (by decide)

theorem class32_eq_nan_iff {fb : F32} : class32 fb = .nan ↔ (f32Exp fb).toNat = 255 ∧ (f32Sig fb).toNat ≠ 0 :=
  classOf_eq_nan_iff (by decide)

theorem class16_eq_zero_iff {h : F16} : class16 h = .zero ↔ (f16Exp h).toNat = 0 ∧ (f16Sig h).toNat = 0 :=
  classOf_eq_zero_iff

theorem class16_eq_subnormal_iff {h : F16} : class16 h = .subnormal ↔ (f16Exp h).toNat = 0 ∧ (f16Sig h).toNat ≠ 0 :=
  classOf_eq_subnormal_iff

theorem class16_eq_normal_iff {h : F16} : class16 h = .normal ↔ (f16Exp h).toNat ≠ 0 ∧ (f16Exp h).toNat ≠ 31 :=
  classOf_eq_normal_iff

theorem class16_eq_infinity_iff {h : F16} : class16 h = .infinity ↔ (f16Exp h).toNat = 31 ∧ (f16Sig h).toNat = 0 :=
  classOf_eq_infinity_iff (by decide)

theorem class16_eq_nan_iff {h : F16} : class16 h = .nan ↔ (f16Exp h).toNat = 31 ∧ (f16Sig h).toNat ≠ 0 :=
  classOf_eq_nan_iff (by decide)

/-- Settles O2: a class is a range of the exponent field, and the selector is that field below the sign. -/
theorem selectorsByValueClass : Obligations.SelectorsByValueClass := by
  unfold Obligations.SelectorsByValueClass
  constructor
  · intro fb exp
    have hexp : exp = 256 * (f32Sign fb).toNat + (f32Exp fb).toNat := packSelector_eq_sign_exp fb
    have hs := (f32Sign fb).isLt
    have hE := (f32Exp fb).isLt
    rw [class32_eq_zero_iff, class32_eq_subnormal_iff, class32_eq_normal_iff, class32_eq_infinity_iff, class32_eq_nan_iff]
    refine ⟨?_, ?_, ?_⟩ <;> omega
  · intro h exp
    have hexp : exp = 32 * (f16Sign h).toNat + (f16Exp h).toNat := unpackSelector_eq_sign_exp h
    have hs := (f16Sign h).isLt
    have hE := (f16Exp h).isLt
    rw [class16_eq_zero_iff, class16_eq_subnormal_iff, class16_eq_normal_iff, class16_eq_infinity_iff, class16_eq_nan_iff]
    refine ⟨?_, ?_, ?_⟩ <;> omega

end Sys2Proof.Proofs
end

section
/-! PROOFS. The family 40_lookup_tables.md: `MANT` in closed form and its order, `EXPT`, and the checksums. -/

namespace Sys2Proof.Proofs

open Sys2Proof.Machine

/-! ### The leading one of a significand -/

/-- The bits of a number below its leading one, left-aligned in 23 bits (40_lookup_tables.md R89). -/
def leftAligned (i : Nat) : Nat := (i - 2 ^ i.log2) * 2 ^ (23 - i.log2)

theorem leftAligned_lt {i : Nat} (hlog : i.log2 ≤ 23) : leftAligned i < 2 ^ 23 := by
  have hlt : i < 2 ^ (i.log2 + 1) := Nat.lt_log2_self
  have hrest : i - 2 ^ i.log2 < 2 ^ i.log2 := by omega
  calc leftAligned i < 2 ^ i.log2 * 2 ^ (23 - i.log2) := Nat.mul_lt_mul_of_pos_right hrest (Nat.two_pow_pos _)
    _ = 2 ^ 23 := by rw [← pow_add, Nat.add_sub_cancel' hlog]

/-- A shift that brings the leading one to bit 23 leaves the other bits left-aligned below it. -/
theorem mul_two_pow_eq_leftAligned {i : Nat} (hpos : 1 ≤ i) (hlog : i.log2 ≤ 23) :
    i * 2 ^ (23 - i.log2) = 2 ^ 23 + leftAligned i := by
  have hle : 2 ^ i.log2 ≤ i := Nat.log2_self_le (by omega)
  calc i * 2 ^ (23 - i.log2) = (2 ^ i.log2 + (i - 2 ^ i.log2)) * 2 ^ (23 - i.log2) := by rw [Nat.add_sub_cancel' hle]
    _ = 2 ^ 23 + leftAligned i := by rw [add_mul, ← pow_add, Nat.add_sub_cancel' hlog, leftAligned]

/-! ### `renormalize` -/

/-- The shifted index of `renormalize` as a number: the highest set bit of the index is brought to bit 23. -/
theorem shifted_index_toNat {i : Nat} (hpos : 1 ≤ i) (hle : i ≤ 1023) :
    (BitVec.ofNat 32 i <<< 13 <<< renormTurns i).toNat = 2 ^ 23 + leftAligned i := by
  have hlog := log2_le_nine hpos hle
  have hshift : 13 + renormTurns i = 23 - i.log2 := by unfold renormTurns; omega
  have hval := mul_two_pow_eq_leftAligned hpos (by omega)
  have hlt := leftAligned_lt (i := i) (by omega)
  rw [← BitVec.shiftLeft_add, hshift, ofNat_shiftLeft_toNat (by omega), hval]

/-- Clearing bit 23 leaves the bits below the leading one, left-aligned in 23 bits (40_lookup_tables.md R89). -/
theorem masked_shifted_index_toNat {i : Nat} (hpos : 1 ≤ i) (hle : i ≤ 1023) :
    ((BitVec.ofNat 32 i <<< 13 <<< renormTurns i) &&& ~~~(0x00800000#32)).toNat = leftAligned i := by
  have hlog := log2_le_nine hpos hle
  have hlt := leftAligned_lt (i := i) (by omega)
  have hlow (y : BitVec 32) : (y &&& 0x007FFFFF#32).toNat = y.toNat % 2 ^ 23 :=
    (BitVec.toNat_and _ _).trans (Nat.and_two_pow_sub_one_eq_mod _ 23)
  have hmask : ~~~(0x00800000#32) &&& 0x007FFFFF#32 = 0x007FFFFF#32 := rfl
  rw [← Nat.mod_eq_of_lt (masked_shifted_index_toNat_lt hpos hle), ← hlow, BitVec.and_assoc, hmask, hlow,
    shifted_index_toNat hpos hle]
  omega

theorem renormalize_toNat {i : Nat} (hpos : 1 ≤ i) (hle : i ≤ 1023) :
    (renormalize i).toNat = (103 + i.log2) * 2 ^ 23 + leftAligned i := by
  have hlog := log2_le_nine hpos hle
  have hsig := masked_shifted_index_toNat_lt hpos hle
  have hfield : 113 - renormTurns i = 103 + i.log2 := by unfold renormTurns; omega
  rw [renormalize_eq_shifted_add hpos hle, accumulator_eq_exponent_field (by unfold renormTurns; omega), hfield,
    BitVec.toNat_add, ofNat_shiftLeft_toNat (by omega)]
  rw [masked_shifted_index_toNat hpos hle] at hsig ⊢
  omega

/-- Settles O11: both sides are the same number. -/
theorem renormalizeHasTheClosedForm : Obligations.RenormalizeHasTheClosedForm := by
  unfold Obligations.RenormalizeHasTheClosedForm
  intro i hpos hle
  rw [renormalizeClosed, ← leftAligned, ← renormalize_toNat hpos hle, BitVec.ofNat_toNat, BitVec.setWidth_eq]

/-! ### `MANT` -/

/-- An element of the lower half as a number, by the place of the highest set bit of the index (40_lookup_tables.md R89). -/
theorem MANT_toNat_lower {i : Fin 2048} (hpos : 1 ≤ i.val) (hle : i.val ≤ 1023) :
    (MANT i).toNat = (103 + i.val.log2) * 2 ^ 23 + leftAligned i.val := by
  rw [MANT_of_le_1023 hpos hle, renormalize_toNat hpos hle]

/-- An element of the upper half as a number (40_lookup_tables.md R81). -/
theorem MANT_toNat_upper {i : Fin 2048} (hi : 1024 ≤ i.val) : (MANT i).toNat = 112 * 2 ^ 23 + (i.val - 1024) * 2 ^ 13 := by
  rw [MANT_of_1024_le hi, BitVec.toNat_add, ofNat_shiftLeft_toNat (by omega), BitVec.toNat_ofNat]
  omega

/-- In the upper half the shifted index stays below the constant's lowest set bit, so the sum is the bitwise or. -/
theorem MANT_eq_or_upper {i : Fin 2048} (hi : 1024 ≤ i.val) :
    MANT i = 0x38000000#32 ||| (BitVec.ofNat 32 (i.val - 1024) <<< 13) := by
  apply BitVec.eq_of_toNat_eq
  rw [MANT_toNat_upper hi, BitVec.toNat_or, ofNat_shiftLeft_toNat (by omega), mul_comm 112]
  exact Nat.two_pow_add_eq_or_of_lt (by omega) 112

/-- Settles O9: the three branches of the table's definition. -/
theorem mantissaTableByIndexRange : Obligations.MantissaTableByIndexRange := by
  unfold Obligations.MantissaTableByIndexRange
  refine ⟨MANT_zero, fun _ => MANT_of_le_1023, fun i hi => ⟨MANT_of_1024_le hi, MANT_eq_or_upper hi, ?_⟩, by decide⟩
  rw [ofNat_shiftLeft_toNat (by omega)]
  omega

/-- In the lower half, more bits make a larger exponent field, and with as many bits the left-aligned rest decides. -/
theorem MANT_lt_lower {i j : Fin 2048} (hij : i < j) (hj : j.val ≤ 1023) : (MANT i).toNat < (MANT j).toNat := by
  have hlt : i.val < j.val := hij
  rw [MANT_toNat_lower (i := j) (by omega) hj]
  rcases Nat.eq_zero_or_pos i.val with hzero | hpos
  · have hi : i = 0 := Fin.ext hzero
    rw [hi, MANT_zero, BitVec.toNat_zero]
    omega
  rw [MANT_toNat_lower hpos (by omega)]
  have hlog := log2_le_nine hpos (by omega)
  have hle : 2 ^ i.val.log2 ≤ i.val := Nat.log2_self_le (by omega)
  have hsig := leftAligned_lt (i := i.val) (by omega)
  have hmono : i.val.log2 ≤ j.val.log2 := by
    rw [Nat.le_log2 (by omega)]
    omega
  rcases hmono.eq_or_lt with hsame | hmore
  · rw [leftAligned, leftAligned, ← hsame]
    have hrest : i.val - 2 ^ i.val.log2 < j.val - 2 ^ i.val.log2 := by omega
    exact Nat.add_lt_add_left (Nat.mul_lt_mul_of_pos_right hrest (Nat.two_pow_pos _)) _
  · omega

theorem MANT_lt_upper {i j : Fin 2048} (hi : 1024 ≤ i.val) (hij : i < j) : (MANT i).toNat < (MANT j).toNat := by
  have hlt : i.val < j.val := hij
  rw [MANT_toNat_upper hi, MANT_toNat_upper (by omega)]
  omega

/-- The elements of exponent field 112 in the lower half stand in the upper half too, at every second index. -/
theorem MANT_overlap {i j : Fin 2048} (hlo : 512 ≤ i.val) (hhi : i.val ≤ 1023) (hj : j.val = 1024 + 2 * (i.val - 512)) :
    MANT i = MANT j := by
  have hlog : i.val.log2 = 9 := (Nat.log2_eq_iff (by omega)).2 ⟨by omega, by omega⟩
  apply BitVec.eq_of_toNat_eq
  rw [MANT_toNat_lower (by omega) hhi, MANT_toNat_upper (by omega), leftAligned, hlog, hj]
  omega

theorem MANT_last : MANT 2047 = 0x387FE000#32 := by
  rw [MANT_of_1024_le (by decide)]
  rfl

/-- The last element is the largest: every other stands before an end of a half. -/
theorem MANT_toNat_le (i : Fin 2048) : (MANT i).toNat ≤ 0x387FE000 := by
  rcases Nat.lt_or_ge i.val 1024 with hlow | hhigh
  · have hend : (MANT 1023).toNat ≤ 0x387FE000 := by
      rw [MANT_overlap (j := 2046) (by decide) (by decide) (by decide), MANT_toNat_upper (by decide)]
      decide
    rcases (show i ≤ 1023 from Nat.le_of_lt_succ hlow).eq_or_lt with rfl | hlt
    · exact hend
    · exact (MANT_lt_lower hlt (by decide)).le.trans hend
  · rw [MANT_toNat_upper hhigh]
    omega

/-- Settles O17: the order of each half, and the two values an element of exponent field 112 is. -/
theorem mantissaTableOrder : Obligations.MantissaTableOrder := by
  unfold Obligations.MantissaTableOrder
  exact ⟨fun _ _ => MANT_lt_lower, fun _ _ => MANT_lt_upper, fun _ _ => MANT_overlap, MANT_toNat_le, MANT_last⟩

/-! ### `EXPT` -/

/-- The exponent field of an element of `EXPT`, without its sign (40_lookup_tables.md R84). -/
def exptField (n : Nat) : Nat := if n % 32 = 31 then 143 else n % 32

/-- An element of `EXPT` as a number: a sign and an exponent field, and no bit below them. -/
theorem EXPT_toNat (i : Fin 64) : (EXPT i).toNat = 2 ^ 31 * (i.val / 32) + exptField i.val * 2 ^ 23 := by
  unfold EXPT exptField
  split
  case isTrue h => simp [h]
  split
  case isTrue h => rw [ofNat_shiftLeft_toNat (by omega), if_neg (by omega)]; omega
  split
  case isTrue h => simp [h]
  split
  case isTrue h => simp [h]
  split
  case isTrue h =>
    rw [BitVec.toNat_add, ofNat_shiftLeft_toNat (by omega), BitVec.toNat_ofNat, if_neg (by omega)]
    omega
  case isFalse =>
    have hlast : i.val = 63 := by omega
    simp [hlast]

theorem exptField_le (n : Nat) : exptField n ≤ 143 := by
  unfold exptField
  split <;> omega

/-- The field tells the exponents apart: 143 is none of the others. -/
theorem exptField_inj {a b : Nat} (h : exptField a = exptField b) : a % 32 = b % 32 := by
  unfold exptField at h
  split at h <;> split at h <;> omega

theorem EXPT_normal {i : Fin 64} (hlo : 1 ≤ i.val) (hhi : i.val ≤ 30) : EXPT i = BitVec.ofNat 32 i.val <<< 23 := by
  rw [EXPT, if_neg (by omega), if_pos hhi]

theorem EXPT_normal_negative {i : Fin 64} (hlo : 33 ≤ i.val) (hhi : i.val ≤ 62) :
    EXPT i = 0x80000000#32 + (BitVec.ofNat 32 (i.val - 32) <<< 23) := by
  rw [EXPT, if_neg (by omega), if_neg (by omega), if_neg (by omega), if_neg (by omega), if_pos hhi]

/-- The negative half is the other with bit 31 added. -/
theorem EXPT_of_add_32 {i j : Fin 64} (hij : j.val = i.val + 32) : EXPT j = EXPT i + 0x80000000#32 := by
  have hfield : exptField j.val = exptField i.val := by
    unfold exptField
    rw [hij, Nat.add_mod_right]
  have hle := exptField_le i.val
  apply BitVec.eq_of_toNat_eq
  rw [BitVec.toNat_add, EXPT_toNat, EXPT_toNat, hfield, BitVec.toNat_ofNat]
  omega

theorem EXPT_injective {i j : Fin 64} (hij : EXPT i = EXPT j) : i = j := by
  have hnat := congrArg BitVec.toNat hij
  have hi := exptField_le i.val
  have hj := exptField_le j.val
  rw [EXPT_toNat, EXPT_toNat] at hnat
  have hrest := exptField_inj (a := i.val) (b := j.val) (by omega)
  exact Fin.ext (by omega)

theorem EXPT_eq_sign_add_field (i : Fin 64) :
    EXPT i = (BitVec.ofNat 32 (i.val / 32) <<< 31) + (BitVec.ofNat 32 (exptField i.val) <<< 23) := by
  have hle := exptField_le i.val
  apply BitVec.eq_of_toNat_eq
  rw [EXPT_toNat, BitVec.toNat_add, ofNat_shiftLeft_toNat (by omega), ofNat_shiftLeft_toNat (by omega)]
  omega

/-- Settles O13: the branches of the definition, and the sign and the field of each element. -/
theorem exponentTableValues : Obligations.ExponentTableValues := by
  unfold Obligations.ExponentTableValues
  exact ⟨rfl, rfl, rfl, rfl, fun _ => EXPT_normal, fun _ => EXPT_normal_negative, fun _ _ => EXPT_of_add_32,
    fun _ _ => EXPT_injective, rfl, rfl, EXPT_eq_sign_add_field⟩

/-! ### The checksums

Each figure is one evaluation of a table's rule at every index, done by the kernel: `MANT` runs the loop of `renormalize` a
thousand times. -/

theorem table_sums :
    ((List.finRange 2048).map fun i => (MANT i).toNat).sum = 1923247767552 ∧
    ((List.finRange 64).map fun i => (OFFS i).toNat).sum = 63488 ∧
    ((List.finRange 64).map fun i => (EXPT i).toNat).sum = 78920024064 ∧
    ((List.finRange 512).map fun i => (BASE i).toNat).sum = 16517118 ∧
    ((List.finRange 512).map fun i => (SHIFT i).toNat).sum = 11496 := by
  refine ⟨?_, ?_, ?_, ?_, ?_⟩ <;> decide +kernel

theorem table_xors :
    ((List.finRange 2048).map MANT).foldl (· ^^^ ·) 0#32 = 0x33C00000#32 ∧
    ((List.finRange 64).map OFFS).foldl (· ^^^ ·) 0#16 = 0#16 ∧
    ((List.finRange 64).map EXPT).foldl (· ^^^ ·) 0#32 = 0#32 ∧
    ((List.finRange 512).map BASE).foldl (· ^^^ ·) 0#16 = 0#16 ∧
    ((List.finRange 512).map SHIFT).foldl (· ^^^ ·) 0#16 = 0#16 := by
  refine ⟨?_, ?_, ?_, ?_, ?_⟩ <;> decide +kernel

/-- Settles O16: the five sums and the five exclusive ors, evaluated. -/
theorem tableChecksums : Obligations.TableChecksums := by
  unfold Obligations.TableChecksums
  obtain ⟨hmant, hoffs, hexpt, hbase, hshift⟩ := table_sums
  exact ⟨hmant, hoffs, hexpt, hbase, hshift, table_xors⟩

end Sys2Proof.Proofs
end

section
/-! PROOFS. The family 41_pack.md: PACK by the fields of its operand, with no table. -/

namespace Sys2Proof.Proofs

open Sys2Proof.Machine

/-! ### The index, the shift and the magnitude -/

theorem packIndex_val (fb : F32) : (packIndex fb).val = 256 * (f32Sign fb).toNat + (f32Exp fb).toNat :=
  packSelector_eq_sign_exp fb

theorem packIndex_div (fb : F32) : (packIndex fb).val / 256 = (f32Sign fb).toNat := by
  have hE := (f32Exp fb).isLt
  rw [packIndex_val]
  omega

theorem packIndex_mod (fb : F32) : (packIndex fb).val % 256 = (f32Exp fb).toNat := by
  have hE := (f32Exp fb).isLt
  rw [packIndex_val]
  omega

/-- The shift amount of PACK by the exponent field (40_lookup_tables.md R87). -/
def packShift (E : Nat) : Nat :=
  if E ≤ 102 then 24
  else if E ≤ 112 then 126 - E
  else if E ≤ 142 then 13
  else if E ≤ 254 then 24
  else 13

theorem SHIFT_toNat (i : Fin 512) : (SHIFT i).toNat = packShift (i.val % 256) := by
  rw [SHIFT_by_exponent_field, packShift]
  split_ifs
  · rfl
  · rw [BitVec.toNat_ofNat]
    omega
  all_goals rfl

/-- The sum of 41_pack.md R100 without the sign bit, by the exponent field and the significand of the operand. -/
def packMagnitude (E m : Nat) : Nat := baseMagnitude E + m / 2 ^ packShift E

theorem packSum_eq (fb : F32) :
    packSum fb = 2 ^ 15 * (f32Sign fb).toNat + packMagnitude (f32Exp fb).toNat (f32Sig fb).toNat := by
  rw [packSum, BASE_toNat, SHIFT_toNat, packIndex_div, packIndex_mod, Nat.shiftRight_eq_div_pow, packMagnitude, add_assoc]

theorem thirteen_le_packShift (E : Nat) : 13 ≤ packShift E := by
  unfold packShift
  split_ifs <;> omega

/-- The magnitude stays below the sign bit. -/
theorem packMagnitude_lt {E m : Nat} (hm : m < 2 ^ 23) : packMagnitude E m < 2 ^ 15 := by
  have hbase := baseMagnitude_le E
  have hsig : m / 2 ^ packShift E ≤ m / 2 ^ 13 :=
    Nat.div_le_div_left (Nat.pow_le_pow_right two_pos (thirteen_le_packShift E)) (by decide)
  unfold packMagnitude
  omega

/-- Truncation to 16 bits removes nothing (41_pack.md R104). -/
theorem PACK_toNat (fb : F32) : (PACK fb).toNat = packSum fb := by
  have hle := packSum_le fb
  rw [PACK, BitVec.toNat_ofNat]
  omega

/-! ### The magnitude by ranges of the exponent field -/

theorem packMagnitude_zero {E m : Nat} (hE : E ≤ 102) (hm : m < 2 ^ 23) : packMagnitude E m = 0 := by
  rw [packMagnitude, baseMagnitude_eq_zero hE, packShift, if_pos hE]
  omega

/-- The significand with its leading one, shifted right: the leading one and the rest part. -/
theorem leading_one_div {k : Nat} (m : Nat) (hk : k ≤ 23) : (2 ^ 23 + m) / 2 ^ k = 2 ^ (23 - k) + m / 2 ^ k := by
  have hsplit : 2 ^ 23 = 2 ^ k * 2 ^ (23 - k) := by rw [← pow_add, Nat.add_sub_cancel' hk]
  rw [hsplit, Nat.mul_add_div (Nat.two_pow_pos k)]

/-- What is left of a significand after a right shift lies below the place its leading one has then. -/
theorem sig_div_lt {k m : Nat} (hk : k ≤ 23) (hm : m < 2 ^ 23) : m / 2 ^ k < 2 ^ (23 - k) := by
  rwa [Nat.div_lt_iff_lt_mul (Nat.two_pow_pos k), ← pow_add, Nat.sub_add_cancel hk]

theorem packMagnitude_subnormal {E m : Nat} (hlo : 103 ≤ E) (hhi : E ≤ 112) :
    packMagnitude E m = (2 ^ 23 + m) / 2 ^ (126 - E) := by
  have hplace : 23 - (126 - E) = E - 103 := by omega
  rw [packMagnitude, baseMagnitude_subnormal hlo hhi, packShift, if_neg (by omega), if_pos hhi,
    leading_one_div m (by omega), hplace]

theorem packMagnitude_normal {E m : Nat} (hlo : 113 ≤ E) (hhi : E ≤ 142) :
    packMagnitude E m = (E - 112) * 2 ^ 10 + m / 2 ^ 13 := by
  rw [packMagnitude, baseMagnitude_normal hlo hhi, packShift, if_neg (by omega), if_neg (by omega), if_pos hhi]

theorem packMagnitude_overflow {E m : Nat} (hlo : 143 ≤ E) (hhi : E ≤ 254) (hm : m < 2 ^ 23) :
    packMagnitude E m = 0x7C00 := by
  rw [packMagnitude, baseMagnitude_infinity hlo, packShift, if_neg (by omega), if_neg (by omega), if_neg (by omega),
    if_pos hhi]
  omega

theorem packMagnitude_max (m : Nat) : packMagnitude 255 m = 0x7C00 + m / 2 ^ 13 := rfl

/-- The results of one exponent field end before the Base element of the next. -/
theorem packMagnitude_le_next {E m : Nat} (hE : E ≤ 254) (hm : m < 2 ^ 23) : packMagnitude E m ≤ baseMagnitude (E + 1) := by
  rcases Nat.lt_or_ge 102 E with h102 | h102
  case inr => exact (packMagnitude_zero h102 hm).trans_le (Nat.zero_le _)
  rcases Nat.lt_or_ge 142 E with h142 | h142
  case inl => rw [packMagnitude_overflow h142 hE hm, baseMagnitude_infinity (by omega)]
  rcases Nat.lt_or_ge 112 E with h112 | h112
  · rw [packMagnitude_normal h112 h142]
    rcases h142.eq_or_lt with rfl | h142
    · rw [baseMagnitude_infinity (by decide)]
      omega
    · rw [baseMagnitude_normal (by omega) h142]
      omega
  · have hplace : 23 - (126 - E) = E - 103 := by omega
    have hrest := sig_div_lt (k := 126 - E) (by omega) hm
    have hdouble : baseMagnitude (E + 1) = 2 ^ (E - 103) + 2 ^ (E - 103) := by
      rcases h112.eq_or_lt with rfl | h112
      · rfl
      · rw [baseMagnitude_subnormal (by omega) h112, ← Nat.two_mul, ← pow_succ']
        congr 1
        omega
    rw [packMagnitude_subnormal h102 h112, leading_one_div m (by omega), hplace, hdouble]
    rw [hplace] at hrest
    omega

/-! ### The result as a joined word -/

/-- A word with the operand's sign and, below it, the magnitude is the result. -/
theorem PACK_eq_joinF16 {fb : F32} {e : BitVec 5} {f : BitVec 10}
    (hmag : packMagnitude (f32Exp fb).toNat (f32Sig fb).toNat = e.toNat * 2 ^ 10 + f.toNat) :
    PACK fb = joinF16 (f32Sign fb) e f := by
  apply BitVec.eq_of_toNat_eq
  rw [PACK_toNat, packSum_eq, hmag, joinF16_toNat]
  omega

/-- The upper ten bits of a significand as a number. -/
theorem extract_upper_toNat (m : BitVec 23) : (m.extractLsb' 13 10).toNat = m.toNat / 2 ^ 13 := by
  have hm := m.isLt
  rw [BitVec.extractLsb'_toNat, Nat.shiftRight_eq_div_pow]
  omega

theorem PACK_zero {fb : F32} (hE : (f32Exp fb).toNat ≤ 102) : PACK fb = joinF16 (f32Sign fb) 0#5 0#10 :=
  PACK_eq_joinF16 (packMagnitude_zero hE (f32Sig fb).isLt)

/-- The subnormal significand of the result has no bit above its ten. -/
theorem subnormal_sig_lt {E m : Nat} (hhi : E ≤ 112) (hm : m < 2 ^ 23) : (2 ^ 23 + m) / 2 ^ (126 - E) < 2 ^ 10 := by
  have hpow : 2 ^ 14 ≤ 2 ^ (126 - E) := Nat.pow_le_pow_right two_pos (by omega)
  exact lt_of_le_of_lt (Nat.div_le_div_left hpow (by decide)) (by omega)

theorem PACK_subnormal {fb : F32} (hlo : 103 ≤ (f32Exp fb).toNat) (hhi : (f32Exp fb).toNat ≤ 112) :
    PACK fb = joinF16 (f32Sign fb) 0#5 (BitVec.ofNat 10 ((2 ^ 23 + (f32Sig fb).toNat) / 2 ^ (126 - (f32Exp fb).toNat))) := by
  apply PACK_eq_joinF16
  rw [packMagnitude_subnormal hlo hhi, BitVec.toNat_ofNat, BitVec.toNat_ofNat,
    Nat.mod_eq_of_lt (subnormal_sig_lt hhi (f32Sig fb).isLt), Nat.zero_mod, zero_mul, zero_add]

theorem PACK_normal {fb : F32} (hlo : 113 ≤ (f32Exp fb).toNat) (hhi : (f32Exp fb).toNat ≤ 142) :
    PACK fb = joinF16 (f32Sign fb) (BitVec.ofNat 5 ((f32Exp fb).toNat - 112)) ((f32Sig fb).extractLsb' 13 10) := by
  apply PACK_eq_joinF16
  rw [packMagnitude_normal hlo hhi, extract_upper_toNat, BitVec.toNat_ofNat]
  omega

theorem PACK_overflow {fb : F32} (hlo : 143 ≤ (f32Exp fb).toNat) (hhi : (f32Exp fb).toNat ≤ 254) :
    PACK fb = joinF16 (f32Sign fb) 31#5 0#10 :=
  PACK_eq_joinF16 (packMagnitude_overflow hlo hhi (f32Sig fb).isLt)

theorem PACK_max {fb : F32} (hE : (f32Exp fb).toNat = 255) :
    PACK fb = joinF16 (f32Sign fb) 31#5 ((f32Sig fb).extractLsb' 13 10) := by
  apply PACK_eq_joinF16
  rw [hE, packMagnitude_max, extract_upper_toNat]
  rfl

/-- The sign of the operand is that of the result (41_pack.md R105). -/
theorem f16Sign_PACK (fb : F32) : f16Sign (PACK fb) = f32Sign fb := by
  have hmag := packMagnitude_lt (E := (f32Exp fb).toNat) (f32Sig fb).isLt
  apply BitVec.eq_of_toNat_eq
  rw [f16Sign_toNat, PACK_toNat, packSum_eq]
  omega

/-! ### The table-free form -/

/-- Ten bits of the significand after its leading one is written out and both are shifted right. -/
theorem extract_leading_one_append (m : BitVec 23) (k : Nat) :
    ((1#1 ++ m) >>> k).extractLsb' 0 10 = BitVec.ofNat 10 ((2 ^ 23 + m.toNat) / 2 ^ k) := by
  have hone : (1#1 ++ m).toNat = 2 ^ 23 + m.toNat := by
    rw [BitVec.toNat_append, ← Nat.shiftLeft_add_eq_or_of_lt m.isLt]
    rfl
  apply BitVec.eq_of_toNat_eq
  rw [BitVec.extractLsb'_toNat, BitVec.toNat_ushiftRight, hone, Nat.shiftRight_zero, Nat.shiftRight_eq_div_pow,
    BitVec.toNat_ofNat]

/-- The table-free form has the branches of the two tables (41_pack.md R105). -/
theorem packDirect_eq_PACK (fb : F32) : packDirect fb = PACK fb := by
  have hE := (f32Exp fb).isLt
  unfold packDirect
  dsimp only
  split
  case isTrue h102 => exact (PACK_zero h102).symm
  split
  case isTrue h112 => rw [extract_leading_one_append, PACK_subnormal (by omega) h112]
  split
  case isTrue h142 => exact (PACK_normal (by omega) h142).symm
  split
  case isTrue h254 => exact (PACK_overflow (by omega) h254).symm
  case isFalse => exact (PACK_max (by omega)).symm

/-- Bit 31 of a binary32 word is its sign. -/
theorem getLsbD_31_eq (fb : F32) : fb.getLsbD 31 = (f32Sign fb).getLsbD 0 := by
  simp [f32Sign]

/-- Bit 15 of a binary16 word is its sign. -/
theorem getLsbD_15_eq (h : F16) : h.getLsbD 15 = (f16Sign h).getLsbD 0 := by
  simp [f16Sign]

/-- Settles O21: the table-free form is PACK, which keeps the sign. -/
theorem packMatchesTheTableFreeForm : Obligations.PackMatchesTheTableFreeForm := by
  unfold Obligations.PackMatchesTheTableFreeForm
  intro fb s
  rw [packDirect_eq_PACK, getLsbD_15_eq, f16Sign_PACK, getLsbD_31_eq]
  exact ⟨exec_pack fb s, rfl⟩

/-! ### The two addends -/

/-- A multiple of a power of two and a number below that power have no common bit. -/
theorem two_pow_mul_and_of_lt {j b : Nat} (a : Nat) (hb : b < 2 ^ j) : 2 ^ j * a &&& b = 0 := by
  apply Nat.eq_of_testBit_eq
  intro n
  rw [Nat.testBit_and, Nat.zero_testBit, Nat.testBit_two_pow_mul]
  rcases Nat.lt_or_ge n j with hn | hn
  · simp [hn]
  · rw [Nat.testBit_lt_two_pow (hb.trans_le (Nat.pow_le_pow_right two_pos hn)), Bool.and_false]

/-- The bit below which the shifted significand lies and at which the magnitude of the Base element begins. -/
theorem exists_addend_boundary {E m : Nat} (hE : E < 256) (hm : m < 2 ^ 23) :
    ∃ j, j ≤ 15 ∧ 2 ^ j ∣ baseMagnitude E ∧ m / 2 ^ packShift E < 2 ^ j := by
  unfold packShift
  split
  case isTrue h102 => exact ⟨0, by omega, one_dvd _, by omega⟩
  split
  case isTrue h112 =>
    refine ⟨E - 103, by omega, by rw [baseMagnitude_subnormal (by omega) h112], ?_⟩
    have hplace : 23 - (126 - E) = E - 103 := by omega
    rw [← hplace]
    exact sig_div_lt (by omega) hm
  split
  case isTrue h142 => exact ⟨10, by omega, by rw [baseMagnitude_normal (by omega) h142]; exact dvd_mul_left _ _, by omega⟩
  split
  case isTrue h254 => exact ⟨0, by omega, one_dvd _, by omega⟩
  case isFalse h254 => exact ⟨10, by omega, by rw [baseMagnitude_infinity (by omega)]; decide, by omega⟩

/-- The sum is `0xFFFF` only where the sign, the exponent field and the upper ten bits of the significand are all ones. -/
theorem packSum_eq_max_iff (fb : F32) : packSum fb = 0xFFFF ↔ fb.extractLsb' 13 19 = BitVec.allOnes 19 := by
  have hones : fb.extractLsb' 13 19 = BitVec.allOnes 19 ↔ fb.toNat / 2 ^ 13 = 2 ^ 19 - 1 := by
    have hlt := fb.isLt
    rw [← BitVec.toNat_inj, BitVec.extractLsb'_toNat, Nat.shiftRight_eq_div_pow, BitVec.toNat_allOnes]
    omega
  have hword := joinF32_toNat (f32Sign fb) (f32Exp fb) (f32Sig fb)
  have hs := (f32Sign fb).isLt
  have hE := (f32Exp fb).isLt
  have hm := (f32Sig fb).isLt
  rw [joinF32_fields] at hword
  rw [hones, packSum_eq, hword]
  rcases Nat.lt_or_ge (f32Exp fb).toNat 255 with hfinite | hmax
  · have hmag := (packMagnitude_le_next (by omega) hm).trans (baseMagnitude_le ((f32Exp fb).toNat + 1))
    omega
  · have hfield : (f32Exp fb).toNat = 255 := by omega
    rw [hfield, packMagnitude_max]
    omega

/-- Settles O20: the Base element begins where the shifted significand ends. -/
theorem packSumNeverCarries : Obligations.PackSumNeverCarries := by
  unfold Obligations.PackSumNeverCarries
  intro fb b shifted
  have hsum : packSum fb = b + shifted := rfl
  have hb : b = 2 ^ 15 * (f32Sign fb).toNat + baseMagnitude (f32Exp fb).toNat := by
    rw [← packIndex_div, ← packIndex_mod, ← BASE_toNat]
  have hshifted : shifted = (f32Sig fb).toNat / 2 ^ packShift (f32Exp fb).toNat := by
    rw [← packIndex_mod, ← SHIFT_toNat, ← Nat.shiftRight_eq_div_pow]
  obtain ⟨j, hj, hdvd, hlt⟩ := exists_addend_boundary (f32Exp fb).isLt (f32Sig fb).isLt
  obtain ⟨a, ha⟩ : 2 ^ j ∣ b := hb ▸ Dvd.dvd.add (Dvd.dvd.mul_right (pow_dvd_pow 2 hj) _) hdvd
  rw [← hshifted] at hlt
  refine ⟨?_, ?_, packSum_le fb, PACK_toNat fb, packSum_eq_max_iff fb⟩
  · rw [ha, two_pow_mul_and_of_lt a hlt]
  · rw [hsum, ha, Nat.two_pow_add_eq_or_of_lt hlt]

/-! ### Fixed words -/

/-- Settles O22: the table sums of four words, evaluated. -/
theorem packKeepsZerosAndInfinities : Obligations.PackKeepsZerosAndInfinities := by
  unfold Obligations.PackKeepsZerosAndInfinities
  intro s
  have hzero : PACK 0x00000000#32 = 0x0000#16 := by decide
  have hnegZero : PACK 0x80000000#32 = 0x8000#16 := by decide
  have hinf : PACK 0x7F800000#32 = 0x7C00#16 := by decide
  have hnegInf : PACK 0xFF800000#32 = 0xFC00#16 := by decide
  simp only [exec_pack, hzero, hnegZero, hinf, hnegInf, and_self]

/-- Settles O30: the reads and the sum of seven words, evaluated. -/
theorem packWorkedExamples : Obligations.PackWorkedExamples := by
  unfold Obligations.PackWorkedExamples
  simp only [packExamples, List.forall_mem_cons]
  refine ⟨?_, ?_, ?_, ?_, ?_, ?_, ?_, List.forall_mem_nil _⟩ <;> decide

end Sys2Proof.Proofs
end

section
/-! PROOFS. The family 42_unpack.md: UNPACK by the fields of its operand, with no table. -/

namespace Sys2Proof.Proofs

open Sys2Proof.Machine

/-! ### The indices and the sum -/

theorem exptField_zero : exptField 0 = 0 := rfl

theorem unpackIndex_val (h : F16) : (unpackIndex h).val = 32 * (f16Sign h).toNat + (f16Exp h).toNat :=
  unpackSelector_eq_sign_exp h

theorem mantIndex_val (h : F16) : (mantIndex h).val = (OFFS (unpackIndex h)).toNat + (f16Sig h).toNat := rfl

theorem mantIndex_lower {h : F16} (hE : (f16Exp h).toNat = 0) : (mantIndex h).val = (f16Sig h).toNat := by
  have hs := (f16Sign h).isLt
  have hindex := unpackIndex_val h
  rw [mantIndex_val, OFFS_eq_zero (by omega), BitVec.toNat_ofNat, Nat.zero_mod, zero_add]

theorem mantIndex_upper {h : F16} (hE : (f16Exp h).toNat ≠ 0) : (mantIndex h).val = 1024 + (f16Sig h).toNat := by
  have hlt := (f16Exp h).isLt
  have hs := (f16Sign h).isLt
  have hindex := unpackIndex_val h
  rw [mantIndex_val, OFFS_eq_1024 (by omega) (by omega), BitVec.toNat_ofNat]

/-- The `EXPT` element UNPACK reads: the operand's sign, and an exponent field (40_lookup_tables.md R84). -/
theorem EXPT_unpackIndex_toNat (h : F16) :
    (EXPT (unpackIndex h)).toNat = 2 ^ 31 * (f16Sign h).toNat + exptField (f16Exp h).toNat * 2 ^ 23 := by
  have hE := (f16Exp h).isLt
  have hdiv : (unpackIndex h).val / 32 = (f16Sign h).toNat := by rw [unpackIndex_val]; omega
  have hfield : exptField (unpackIndex h).val = exptField (f16Exp h).toNat := by
    rw [exptField, unpackIndex_val, Nat.mul_add_mod, ← exptField]
  rw [EXPT_toNat, hdiv, hfield]

/-- The addition of UNPACK is that of the numbers (42_unpack.md R124). -/
theorem UNPACK_toNat (h : F16) : (UNPACK h).toNat = (MANT (mantIndex h)).toNat + (EXPT (unpackIndex h)).toNat := by
  rw [UNPACK, BitVec.toNat_add, Nat.mod_eq_of_lt (MANT_add_EXPT_lt _ _)]

/-! ### The result as a joined word -/

/-- A word with the operand's sign and, below it, the `MANT` element and the exponent field of the `EXPT` element is the
result. -/
theorem UNPACK_eq_joinF32 {h : F16} {e : BitVec 8} {f : BitVec 23}
    (hmag : (MANT (mantIndex h)).toNat + exptField (f16Exp h).toNat * 2 ^ 23 = e.toNat * 2 ^ 23 + f.toNat) :
    UNPACK h = joinF32 (f16Sign h) e f := by
  apply BitVec.eq_of_toNat_eq
  rw [UNPACK_toNat, EXPT_unpackIndex_toNat, joinF32_toNat]
  omega

/-- A significand with 13 zeros after it as a number. -/
theorem append_zeros_toNat (m : BitVec 10) : (m ++ 0#13).toNat = m.toNat * 2 ^ 13 := by
  rw [BitVec.toNat_append, BitVec.toNat_ofNat, Nat.zero_mod, Nat.or_zero, Nat.shiftLeft_eq]

theorem UNPACK_zero {h : F16} (hE : (f16Exp h).toNat = 0) (hm : (f16Sig h).toNat = 0) :
    UNPACK h = joinF32 (f16Sign h) 0#8 0#23 := by
  have hindex : mantIndex h = 0 := Fin.ext ((mantIndex_lower hE).trans hm)
  apply UNPACK_eq_joinF32
  rw [hindex, MANT_zero, hE, exptField_zero]
  rfl

/-- The exponent field and the significand of a renormalized subnormal fit their fields. -/
theorem log2_sig_le_nine (m : BitVec 10) (hm : 1 ≤ m.toNat) : m.toNat.log2 ≤ 9 :=
  log2_le_nine hm (Nat.le_of_lt_succ m.isLt)

theorem UNPACK_subnormal {h : F16} (hE : (f16Exp h).toNat = 0) (hm : 1 ≤ (f16Sig h).toNat) :
    UNPACK h = joinF32 (f16Sign h) (BitVec.ofNat 8 (103 + (f16Sig h).toNat.log2))
      (BitVec.ofNat 23 (leftAligned (f16Sig h).toNat)) := by
  have hlog := log2_sig_le_nine _ hm
  have hlt := (f16Sig h).isLt
  have hindex := mantIndex_lower hE
  have hrest := leftAligned_lt (i := (f16Sig h).toNat) (by omega)
  apply UNPACK_eq_joinF32
  rw [MANT_toNat_lower (by omega) (by omega), hindex, hE, BitVec.toNat_ofNat, BitVec.toNat_ofNat,
    Nat.mod_eq_of_lt hrest, Nat.mod_eq_of_lt (by omega), exptField_zero, zero_mul, add_zero]

theorem UNPACK_normal {h : F16} (hlo : 1 ≤ (f16Exp h).toNat) (hhi : (f16Exp h).toNat ≤ 30) :
    UNPACK h = joinF32 (f16Sign h) (BitVec.ofNat 8 ((f16Exp h).toNat + 112)) (f16Sig h ++ 0#13) := by
  have hindex := mantIndex_upper (h := h) (by omega)
  apply UNPACK_eq_joinF32
  rw [MANT_toNat_upper (by omega), hindex, append_zeros_toNat, exptField, if_neg (by omega), BitVec.toNat_ofNat]
  omega

theorem UNPACK_max {h : F16} (hE : (f16Exp h).toNat = 31) : UNPACK h = joinF32 (f16Sign h) 255#8 (f16Sig h ++ 0#13) := by
  have hindex := mantIndex_upper (h := h) (by omega)
  apply UNPACK_eq_joinF32
  rw [MANT_toNat_upper (by omega), hindex, append_zeros_toNat, exptField, if_pos (by omega), BitVec.toNat_ofNat]
  omega

/-- The four forms of UNPACK's result are for all operands. -/
theorem f16_field_cases (h : F16) :
    ((f16Exp h).toNat = 0 ∧ (f16Sig h).toNat = 0) ∨ ((f16Exp h).toNat = 0 ∧ 1 ≤ (f16Sig h).toNat) ∨
    (1 ≤ (f16Exp h).toNat ∧ (f16Exp h).toNat ≤ 30) ∨ (f16Exp h).toNat = 31 := by
  have hE := (f16Exp h).isLt
  omega

/-- The sign of the operand is that of the result (42_unpack.md R125). -/
theorem f32Sign_UNPACK (h : F16) : f32Sign (UNPACK h) = f16Sign h := by
  obtain ⟨hE, hm⟩ | ⟨hE, hm⟩ | ⟨hlo, hhi⟩ | hE := f16_field_cases h
  · rw [UNPACK_zero hE hm, f32Sign_joinF32]
  · rw [UNPACK_subnormal hE hm, f32Sign_joinF32]
  · rw [UNPACK_normal hlo hhi, f32Sign_joinF32]
  · rw [UNPACK_max hE, f32Sign_joinF32]

/-! ### The fields of the result -/

theorem UNPACK_fields_zero {h : F16} (hE : (f16Exp h).toNat = 0) (hm : (f16Sig h).toNat = 0) :
    (f32Exp (UNPACK h)).toNat = 0 ∧ (f32Sig (UNPACK h)).toNat = 0 := by
  rw [UNPACK_zero hE hm, f32Exp_joinF32, f32Sig_joinF32]
  exact ⟨rfl, rfl⟩

theorem UNPACK_fields_subnormal {h : F16} (hE : (f16Exp h).toNat = 0) (hm : 1 ≤ (f16Sig h).toNat) :
    (f32Exp (UNPACK h)).toNat = 103 + (f16Sig h).toNat.log2 ∧
    (f32Sig (UNPACK h)).toNat = leftAligned (f16Sig h).toNat := by
  have hlog := log2_sig_le_nine _ hm
  rw [UNPACK_subnormal hE hm, f32Exp_joinF32, f32Sig_joinF32, BitVec.toNat_ofNat, BitVec.toNat_ofNat]
  exact ⟨Nat.mod_eq_of_lt (by omega), Nat.mod_eq_of_lt (leftAligned_lt (by omega))⟩

theorem UNPACK_fields_normal {h : F16} (hlo : 1 ≤ (f16Exp h).toNat) (hhi : (f16Exp h).toNat ≤ 30) :
    (f32Exp (UNPACK h)).toNat = (f16Exp h).toNat + 112 ∧ (f32Sig (UNPACK h)).toNat = (f16Sig h).toNat * 2 ^ 13 := by
  rw [UNPACK_normal hlo hhi, f32Exp_joinF32, f32Sig_joinF32, append_zeros_toNat, BitVec.toNat_ofNat]
  exact ⟨Nat.mod_eq_of_lt (by omega), rfl⟩

theorem UNPACK_fields_max {h : F16} (hE : (f16Exp h).toNat = 31) :
    (f32Exp (UNPACK h)).toNat = 255 ∧ (f32Sig (UNPACK h)).toNat = (f16Sig h).toNat * 2 ^ 13 := by
  rw [UNPACK_max hE, f32Exp_joinF32, f32Sig_joinF32, append_zeros_toNat]
  exact ⟨rfl, rfl⟩

/-! ### The table-free form -/

/-- The table-free form has the branches of the tables (42_unpack.md R125). -/
theorem unpackDirect_eq_UNPACK (h : F16) : unpackDirect h = UNPACK h := by
  have hE := (f16Exp h).isLt
  have hzero : f16Sig h = 0#10 ↔ (f16Sig h).toNat = 0 := by rw [← BitVec.toNat_inj, BitVec.toNat_ofNat, Nat.zero_mod]
  unfold unpackDirect
  dsimp only
  split
  case isTrue hE =>
    split
    case isTrue hm => exact (UNPACK_zero hE (hzero.1 hm)).symm
    case isFalse hm =>
      rw [UNPACK_subnormal hE (Nat.one_le_iff_ne_zero.2 fun hm' => hm (hzero.2 hm')), leftAligned, Nat.shiftLeft_eq]
  split
  case isTrue h30 => exact (UNPACK_normal (by omega) h30).symm
  case isFalse h30 => exact (UNPACK_max (by omega)).symm

/-- Settles O33: the table-free form is UNPACK, which keeps the sign. -/
theorem unpackMatchesTheTableFreeForm : Obligations.UnpackMatchesTheTableFreeForm := by
  unfold Obligations.UnpackMatchesTheTableFreeForm
  intro h s
  rw [unpackDirect_eq_UNPACK, getLsbD_31_eq, f32Sign_UNPACK, getLsbD_15_eq]
  exact ⟨exec_unpack h s, rfl⟩

/-! ### The two addends -/

/-- Settles O32: the `EXPT` element is a sign and an exponent field at most 143, the `MANT` element has exponent field at
most 112 and no sign. -/
theorem unpackSumNeverWraps : Obligations.UnpackSumNeverWraps := by
  unfold Obligations.UnpackSumNeverWraps
  refine ⟨fun h => ?_, by decide⟩
  have hsum := UNPACK_toNat h
  have hexpt := EXPT_unpackIndex_toNat h
  have hfield := exptField_le (f16Exp h).toNat
  have hmant := MANT_toNat_le (mantIndex h)
  have hmax := EXPT_toNat_le (unpackIndex h)
  refine ⟨hmant, Nat.testBit_lt_two_pow (hmant.trans_lt (by decide)), by omega, hsum, ?_, ?_, by omega⟩
  · apply BitVec.eq_of_toNat_eq
    rw [BitVec.extractLsb'_toNat, BitVec.extractLsb'_toNat, Nat.shiftRight_zero, Nat.shiftRight_zero, hsum]
    omega
  · have hsign : f32Sign (EXPT (unpackIndex h)) = f16Sign h := by
      apply BitVec.eq_of_toNat_eq
      rw [f32Sign_toNat]
      omega
    rw [getLsbD_31_eq, getLsbD_31_eq, f32Sign_UNPACK, hsign]

/-- Settles O37: the reads and the sum of seven words, evaluated. -/
theorem unpackWorkedExamples : Obligations.UnpackWorkedExamples := by
  unfold Obligations.UnpackWorkedExamples
  simp only [unpackExamples, List.forall_mem_cons]
  refine ⟨?_, ?_, ?_, ?_, ?_, ?_, ?_, List.forall_mem_nil _⟩ <;> decide

end Sys2Proof.Proofs
end

section
/-! PROOFS. The family 43_codec_laws.md: the two operations after each other. -/

namespace Sys2Proof.Proofs

open Sys2Proof.Machine

/-! ### UNPACK and then PACK -/

/-- Each form of UNPACK's result has an exponent field for which PACK forms the operand again: the 13 zeros UNPACK writes are
the 13 bits PACK drops, and a subnormal is shifted back by as much as it was shifted. -/
theorem packMagnitude_UNPACK (h : F16) :
    packMagnitude (f32Exp (UNPACK h)).toNat (f32Sig (UNPACK h)).toNat = (f16Exp h).toNat * 2 ^ 10 + (f16Sig h).toNat := by
  obtain ⟨hE, hm⟩ | ⟨hE, hm⟩ | ⟨hlo, hhi⟩ | hE := f16_field_cases h
  · obtain ⟨hexp, hsig⟩ := UNPACK_fields_zero hE hm
    rw [hexp, hsig, hE, hm]
    rfl
  · have hlog := log2_sig_le_nine _ hm
    have hplace : 126 - (103 + (f16Sig h).toNat.log2) = 23 - (f16Sig h).toNat.log2 := by omega
    obtain ⟨hexp, hsig⟩ := UNPACK_fields_subnormal hE hm
    rw [hexp, hsig, packMagnitude_subnormal (by omega) (by omega), hplace, ← mul_two_pow_eq_leftAligned hm (by omega),
      Nat.mul_div_cancel _ (Nat.two_pow_pos _), hE, zero_mul, zero_add]
  · obtain ⟨hexp, hsig⟩ := UNPACK_fields_normal hlo hhi
    rw [hexp, hsig, packMagnitude_normal (by omega) (by omega)]
    omega
  · obtain ⟨hexp, hsig⟩ := UNPACK_fields_max hE
    rw [hexp, hsig, packMagnitude_max]
    omega

/-- The half round trip (43_codec_laws.md R140). -/
theorem PACK_UNPACK (h : F16) : PACK (UNPACK h) = h := by
  rw [PACK_eq_joinF16 (packMagnitude_UNPACK h), f32Sign_UNPACK, joinF16_fields]

/-- Settles O39: PACK undoes UNPACK. -/
theorem halfRoundTrip : Obligations.HalfRoundTrip := by
  unfold Obligations.HalfRoundTrip
  exact fun h s => ⟨_, _, exec_unpack h s, exec_pack _ _, PACK_UNPACK h⟩

/-- Settles O41: the second PACK undoes the UNPACK before it. -/
theorem packIsIdempotentThroughUnpack : Obligations.PackIsIdempotentThroughUnpack := by
  unfold Obligations.PackIsIdempotentThroughUnpack
  exact fun fb s => ⟨_, _, _, exec_pack fb s, exec_unpack _ _, exec_pack _ _, PACK_UNPACK (PACK fb)⟩

/-! ### PACK and then UNPACK -/

/-- The word with its low `k` bits cleared. -/
def clearLow (k : Nat) (fb : F32) : F32 := fb &&& (BitVec.allOnes 32 <<< k)

theorem clearLow_13 (fb : F32) : clearLow 13 fb = fb &&& 0xFFFFE000#32 := rfl

theorem clearLow_toNat (k : Nat) (fb : F32) : (clearLow k fb).toNat = fb.toNat / 2 ^ k * 2 ^ k := by
  have hle : fb.toNat / 2 ^ k * 2 ^ k < 2 ^ 32 := lt_of_le_of_lt (Nat.div_mul_le_self _ _) fb.isLt
  rw [clearLow, ← BitVec.shiftLeft_ushiftRight, BitVec.toNat_shiftLeft, BitVec.toNat_ushiftRight,
    Nat.shiftRight_eq_div_pow, Nat.shiftLeft_eq, Nat.mod_eq_of_lt hle]

/-- Clearing bits of the significand alone, as numbers. -/
theorem clearLow_toNat_of_le {k : Nat} (hk : k ≤ 23) (fb : F32) :
    (clearLow k fb).toNat = fb.toNat / 2 ^ 23 * 2 ^ 23 + (f32Sig fb).toNat / 2 ^ k * 2 ^ k := by
  have hsplit : 2 ^ 23 = 2 ^ k * 2 ^ (23 - k) := by rw [← pow_add, Nat.add_sub_cancel' hk]
  have hword : fb.toNat = 2 ^ k * (2 ^ (23 - k) * (fb.toNat / 2 ^ 23)) + (f32Sig fb).toNat := by
    rw [← mul_assoc, ← hsplit, f32Sig_toNat, Nat.div_add_mod]
  rw [clearLow_toNat]
  nth_rw 1 [hword]
  rw [Nat.mul_add_div (Nat.two_pow_pos k), add_mul]
  congr 1
  rw [mul_right_comm, mul_comm (2 ^ (23 - k)), ← hsplit, mul_comm]

theorem sig_div_mul_lt (k : Nat) (fb : F32) : (f32Sig fb).toNat / 2 ^ k * 2 ^ k < 2 ^ 23 :=
  lt_of_le_of_lt (Nat.div_mul_le_self _ _) (f32Sig fb).isLt

theorem f32Sign_clearLow {k : Nat} (hk : k ≤ 23) (fb : F32) : f32Sign (clearLow k fb) = f32Sign fb := by
  have hsig := sig_div_mul_lt k fb
  apply BitVec.eq_of_toNat_eq
  rw [f32Sign_toNat, f32Sign_toNat, clearLow_toNat_of_le hk]
  omega

theorem f32Exp_clearLow {k : Nat} (hk : k ≤ 23) (fb : F32) : f32Exp (clearLow k fb) = f32Exp fb := by
  have hsig := sig_div_mul_lt k fb
  apply BitVec.eq_of_toNat_eq
  rw [f32Exp_toNat, f32Exp_toNat, clearLow_toNat_of_le hk]
  omega

theorem f32Sig_clearLow_toNat {k : Nat} (hk : k ≤ 23) (fb : F32) :
    (f32Sig (clearLow k fb)).toNat = (f32Sig fb).toNat / 2 ^ k * 2 ^ k := by
  have hsig := sig_div_mul_lt k fb
  rw [f32Sig_toNat, clearLow_toNat_of_le hk]
  omega

/-- A word with the operand's sign and exponent field, and the significand with its low `k` bits cleared. -/
theorem joinF32_eq_clearLow {k : Nat} {fb : F32} {E : BitVec 8} {m : BitVec 23} (hk : k ≤ 23)
    (hE : E.toNat = (f32Exp fb).toNat) (hm : m.toNat = (f32Sig fb).toNat / 2 ^ k * 2 ^ k) :
    joinF32 (f32Sign fb) E m = clearLow k fb := by
  apply f32_ext
  · rw [f32Sign_joinF32, f32Sign_clearLow hk]
  · rw [f32Exp_joinF32, f32Exp_clearLow hk, BitVec.eq_of_toNat_eq hE]
  · apply BitVec.eq_of_toNat_eq
    rw [f32Sig_joinF32, f32Sig_clearLow_toNat hk, hm]

theorem roundTrip_zero {fb : F32} (hE : (f32Exp fb).toNat ≤ 102) : UNPACK (PACK fb) = joinF32 (f32Sign fb) 0#8 0#23 := by
  rw [PACK_zero hE, UNPACK_zero (by simp) (by simp), f16Sign_joinF16]

theorem log2_leading_add {p r : Nat} (hr : r < 2 ^ p) : (2 ^ p + r).log2 = p :=
  (Nat.log2_eq_iff (Nat.add_pos_left (Nat.two_pow_pos p) r).ne').2
    ⟨Nat.le_add_right _ _, by rw [pow_succ, mul_two]; exact Nat.add_lt_add_left hr _⟩

theorem roundTrip_subnormal {fb : F32} (hlo : 103 ≤ (f32Exp fb).toNat) (hhi : (f32Exp fb).toNat ≤ 112) :
    UNPACK (PACK fb) = clearLow (126 - (f32Exp fb).toNat) fb := by
  have hk : 126 - (f32Exp fb).toNat ≤ 23 := by omega
  have hlt := subnormal_sig_lt hhi (f32Sig fb).isLt
  have hrest := sig_div_lt hk (f32Sig fb).isLt
  have hclear := sig_div_mul_lt (126 - (f32Exp fb).toNat) fb
  have hplace : 23 - (126 - (f32Exp fb).toNat) = (f32Exp fb).toNat - 103 := by omega
  have hback : 23 - ((f32Exp fb).toNat - 103) = 126 - (f32Exp fb).toNat := by omega
  rw [leading_one_div _ hk] at hlt
  rw [hplace] at hrest hlt
  have hpos : 1 ≤ 2 ^ ((f32Exp fb).toNat - 103) + (f32Sig fb).toNat / 2 ^ (126 - (f32Exp fb).toNat) :=
    Nat.le_add_right_of_le Nat.one_le_two_pow
  rw [PACK_subnormal hlo hhi, leading_one_div _ hk, hplace, UNPACK_subnormal (by simp)
    (by rwa [f16Sig_joinF16, BitVec.toNat_ofNat, Nat.mod_eq_of_lt hlt])]
  simp only [f16Sign_joinF16, f16Sig_joinF16, BitVec.toNat_ofNat, Nat.mod_eq_of_lt hlt, leftAligned, log2_leading_add hrest,
    hback, Nat.add_sub_cancel_left]
  apply joinF32_eq_clearLow hk
  · rw [BitVec.toNat_ofNat]
    omega
  · rw [BitVec.toNat_ofNat, Nat.mod_eq_of_lt hclear]

theorem roundTrip_normal {fb : F32} (hlo : 113 ≤ (f32Exp fb).toNat) (hhi : (f32Exp fb).toNat ≤ 142) :
    UNPACK (PACK fb) = clearLow 13 fb := by
  have hfield : (BitVec.ofNat 5 ((f32Exp fb).toNat - 112)).toNat = (f32Exp fb).toNat - 112 := by
    rw [BitVec.toNat_ofNat]
    omega
  rw [PACK_normal hlo hhi, UNPACK_normal (by rw [f16Exp_joinF16, hfield]; omega) (by rw [f16Exp_joinF16, hfield]; omega),
    f16Sign_joinF16, f16Exp_joinF16, f16Sig_joinF16, hfield]
  apply joinF32_eq_clearLow (by decide)
  · rw [BitVec.toNat_ofNat]
    omega
  · rw [append_zeros_toNat, extract_upper_toNat]

theorem roundTrip_overflow {fb : F32} (hlo : 143 ≤ (f32Exp fb).toNat) (hhi : (f32Exp fb).toNat ≤ 254) :
    UNPACK (PACK fb) = joinF32 (f32Sign fb) 255#8 0#23 := by
  rw [PACK_overflow hlo hhi, UNPACK_max (by rw [f16Exp_joinF16]; rfl), f16Sign_joinF16, f16Sig_joinF16]
  rfl

theorem roundTrip_max {fb : F32} (hE : (f32Exp fb).toNat = 255) : UNPACK (PACK fb) = clearLow 13 fb := by
  rw [PACK_max hE, UNPACK_max (by rw [f16Exp_joinF16]; rfl), f16Sign_joinF16, f16Sig_joinF16]
  apply joinF32_eq_clearLow (by decide)
  · rw [hE]
    rfl
  · rw [append_zeros_toNat, extract_upper_toNat]

/-! ### The range of UNPACK -/

/-- The five forms of PACK's result are for all operands. -/
theorem f32Exp_cases (fb : F32) :
    (f32Exp fb).toNat ≤ 102 ∨ (103 ≤ (f32Exp fb).toNat ∧ (f32Exp fb).toNat ≤ 112) ∨
    (113 ≤ (f32Exp fb).toNat ∧ (f32Exp fb).toNat ≤ 142) ∨ (143 ≤ (f32Exp fb).toNat ∧ (f32Exp fb).toNat ≤ 254) ∨
    (f32Exp fb).toNat = 255 := by
  have hE := (f32Exp fb).isLt
  omega

/-- The words the rule lists (43_codec_laws.md R141). -/
theorem inUnpackRange_iff (fb : F32) : inUnpackRange fb = true ↔
    ((f32Exp fb).toNat = 0 ∧ (f32Sig fb).toNat = 0) ∨
    ((103 ≤ (f32Exp fb).toNat ∧ (f32Exp fb).toNat ≤ 112) ∧ (f32Sig fb).toNat % 2 ^ (126 - (f32Exp fb).toNat) = 0) ∨
    (((113 ≤ (f32Exp fb).toNat ∧ (f32Exp fb).toNat ≤ 142) ∨ (f32Exp fb).toNat = 255) ∧
      (f32Sig fb).toNat % 2 ^ 13 = 0) := by
  unfold inUnpackRange
  dsimp only
  split_ifs <;> simp only [decide_eq_true_eq, false_iff] <;> omega

theorem clearLow_eq_self_iff {k : Nat} (hk : k ≤ 23) (fb : F32) :
    clearLow k fb = fb ↔ (f32Sig fb).toNat % 2 ^ k = 0 := by
  have hmod := Nat.div_add_mod' (f32Sig fb).toNat (2 ^ k)
  constructor
  · intro h
    have hsig := f32Sig_clearLow_toNat hk fb
    rw [h] at hsig
    omega
  · intro h
    refine f32_ext (f32Sign_clearLow hk fb) (f32Exp_clearLow hk fb) (BitVec.eq_of_toNat_eq ?_)
    rw [f32Sig_clearLow_toNat hk]
    omega

theorem joinF32_eq_self_iff (fb : F32) (E : BitVec 8) (m : BitVec 23) :
    joinF32 (f32Sign fb) E m = fb ↔ E.toNat = (f32Exp fb).toNat ∧ m.toNat = (f32Sig fb).toNat := by
  constructor
  · intro h
    rw [← h, f32Exp_joinF32, f32Sig_joinF32]
    exact ⟨rfl, rfl⟩
  · rintro ⟨hE, hm⟩
    rw [BitVec.eq_of_toNat_eq hE, BitVec.eq_of_toNat_eq hm, joinF32_fields]

/-- The round trip gives the operand back exactly for the words the rule lists (43_codec_laws.md R141). -/
theorem roundTrip_eq_self_iff (fb : F32) : UNPACK (PACK fb) = fb ↔ inUnpackRange fb = true := by
  rw [inUnpackRange_iff]
  obtain hE | ⟨hlo, hhi⟩ | ⟨hlo, hhi⟩ | ⟨hlo, hhi⟩ | hE := f32Exp_cases fb
  · rw [roundTrip_zero hE, joinF32_eq_self_iff, BitVec.toNat_ofNat, BitVec.toNat_ofNat]
    omega
  · rw [roundTrip_subnormal hlo hhi, clearLow_eq_self_iff (by omega)]
    omega
  · rw [roundTrip_normal hlo hhi, clearLow_eq_self_iff (by decide)]
    omega
  · rw [roundTrip_overflow hlo hhi, joinF32_eq_self_iff, BitVec.toNat_ofNat, BitVec.toNat_ofNat]
    omega
  · rw [roundTrip_max hE, clearLow_eq_self_iff (by decide)]
    omega

/-- The words the rule lists are the results of UNPACK. -/
theorem inUnpackRange_iff_exists (fb : F32) : inUnpackRange fb = true ↔ ∃ h, UNPACK h = fb := by
  rw [← roundTrip_eq_self_iff]
  constructor
  · exact fun h => ⟨PACK fb, h⟩
  · rintro ⟨h, rfl⟩
    rw [PACK_UNPACK]

theorem inUnpackRange_UNPACK (h : F16) : inUnpackRange (UNPACK h) = true :=
  (inUnpackRange_iff_exists _).2 ⟨h, rfl⟩

/-- Settles O40: what comes back is `UNPACK (PACK fb)`. -/
theorem singleRoundTripExactlyInRange : Obligations.SingleRoundTripExactlyInRange := by
  unfold Obligations.SingleRoundTripExactlyInRange
  exact fun fb s => ⟨_, _, exec_pack fb s, exec_unpack _ _, roundTrip_eq_self_iff fb, inUnpackRange_iff_exists fb⟩

/-- Thirteen low bits are zero wherever at least as many are. -/
theorem mod_two_pow_13_eq_zero {k m : Nat} (hk : 13 ≤ k) (hm : m % 2 ^ k = 0) : m % 2 ^ 13 = 0 :=
  Nat.mod_eq_zero_of_dvd ((pow_dvd_pow 2 hk).trans (Nat.dvd_of_mod_eq_zero hm))

/-- Settles O36: UNPACK has PACK as its left inverse, and its results are among the words of R141. -/
theorem unpackRange : Obligations.UnpackRange := by
  unfold Obligations.UnpackRange
  refine ⟨fun g h hgh => by rw [← PACK_UNPACK g, hgh, PACK_UNPACK], fun h => ?_⟩
  have hrange := (inUnpackRange_iff _).1 (inUnpackRange_UNPACK h)
  have hzero : f32Exp (UNPACK h) = 0#8 ↔ (f32Exp (UNPACK h)).toNat = 0 := by rw [← BitVec.toNat_inj]; rfl
  have hmax : f32Exp (UNPACK h) = 255#8 ↔ (f32Exp (UNPACK h)).toNat = 255 := by rw [← BitVec.toNat_inj]; rfl
  have hlow : (f32Sig (UNPACK h)).toNat % 2 ^ 13 = 0 := by
    obtain ⟨-, hm⟩ | ⟨⟨hlo, hhi⟩, hm⟩ | ⟨-, hm⟩ := hrange
    · rw [hm, Nat.zero_mod]
    · exact mod_two_pow_13_eq_zero (by omega) hm
    · exact hm
  refine ⟨?_, ?_, ?_⟩
  · apply BitVec.eq_of_toNat_eq
    rw [f32Sig_toNat] at hlow
    rw [BitVec.extractLsb'_toNat, Nat.shiftRight_zero, BitVec.toNat_ofNat]
    omega
  · rw [Ne, class32_eq_subnormal_iff]
    omega
  · rw [hzero, hmax]
    omega

/-! ### Monotonicity -/

theorem baseMagnitude_mono {E F : Nat} (h : E ≤ F) : baseMagnitude E ≤ baseMagnitude F := by
  rw [← baseMagnitude_clamp E, ← baseMagnitude_clamp F]
  exact baseMagnitude_strictMonoOn.monotoneOn ⟨by omega, by omega⟩ ⟨by omega, by omega⟩ (by omega)

/-- A larger word without its sign gives a larger or equal result without its sign, NaNs included. -/
theorem packMagnitude_mono {E m F n : Nat} (hm : m < 2 ^ 23) (hn : n < 2 ^ 23) (hF : F ≤ 255)
    (hle : E * 2 ^ 23 + m ≤ F * 2 ^ 23 + n) : packMagnitude E m ≤ packMagnitude F n := by
  rcases Nat.lt_or_ge E F with hlt | hge
  · calc packMagnitude E m ≤ baseMagnitude (E + 1) := packMagnitude_le_next (by omega) hm
      _ ≤ baseMagnitude F := baseMagnitude_mono hlt
      _ ≤ packMagnitude F n := Nat.le_add_right _ _
  · have hEF : E = F := by omega
    rw [hEF]
    exact Nat.add_le_add_left (Nat.div_le_div_right (by omega)) _

theorem PACK_mono {a b : F32} (hab : a ≤ b) : PACK a ≤ PACK b := by
  have ha := joinF32_toNat (f32Sign a) (f32Exp a) (f32Sig a)
  have hb := joinF32_toNat (f32Sign b) (f32Exp b) (f32Sig b)
  have hEa := (f32Exp a).isLt
  have hEb := (f32Exp b).isLt
  have hma := (f32Sig a).isLt
  have hmb := (f32Sig b).isLt
  rw [joinF32_fields] at ha hb
  rw [BitVec.le_def] at hab ⊢
  rw [PACK_toNat, PACK_toNat, packSum_eq, packSum_eq]
  rcases Nat.lt_or_ge (f32Sign a).toNat (f32Sign b).toNat with hs | hs
  · have hlt := packMagnitude_lt (E := (f32Exp a).toNat) hma
    omega
  · have hmag := packMagnitude_mono (E := (f32Exp a).toNat) (F := (f32Exp b).toNat) hma hmb (by omega) (by omega)
    omega

/-- Where UNPACK undoes PACK, PACK tells words apart. -/
theorem PACK_lt_of_inUnpackRange {a b : F32} (hab : a < b) (ha : inUnpackRange a = true) (hb : inUnpackRange b = true) :
    PACK a < PACK b := by
  refine BitVec.lt_of_le_ne (PACK_mono (BitVec.le_of_lt hab)) fun heq => ?_
  rw [← (roundTrip_eq_self_iff a).2 ha, ← (roundTrip_eq_self_iff b).2 hb, heq] at hab
  exact absurd hab (BitVec.lt_irrefl _)

/-- PACK would carry a failure of strictness back to the operands of UNPACK. -/
theorem UNPACK_strictMono {g h : F16} (hgh : g < h) : UNPACK g < UNPACK h := by
  by_contra hnot
  have hle := PACK_mono (BitVec.not_lt.1 hnot)
  rw [PACK_UNPACK, PACK_UNPACK] at hle
  exact absurd hgh (BitVec.not_lt.2 hle)

/-- Settles O42: PACK is monotone and UNPACK strictly monotone even with NaNs, and with signs as the top bits. -/
theorem conversionsAreMonotone : Obligations.ConversionsAreMonotone := by
  unfold Obligations.ConversionsAreMonotone
  exact ⟨fun _ _ hab _ => PACK_mono hab, fun _ _ hab _ => PACK_lt_of_inUnpackRange hab,
    fun _ _ hgh _ => UNPACK_strictMono hgh⟩

/-! ### Sign symmetry -/

theorem f32Sign_flip (fb : F32) : f32Sign (fb ^^^ 0x80000000#32) = f32Sign fb ^^^ 1#1 := BitVec.extractLsb'_xor
theorem f32Exp_flip (fb : F32) : f32Exp (fb ^^^ 0x80000000#32) = f32Exp fb := BitVec.extractLsb'_xor.trans BitVec.xor_zero
theorem f32Sig_flip (fb : F32) : f32Sig (fb ^^^ 0x80000000#32) = f32Sig fb := BitVec.extractLsb'_xor.trans BitVec.xor_zero
theorem f16Sign_flip (h : F16) : f16Sign (h ^^^ 0x8000#16) = f16Sign h ^^^ 1#1 := BitVec.extractLsb'_xor
theorem f16Exp_flip (h : F16) : f16Exp (h ^^^ 0x8000#16) = f16Exp h := BitVec.extractLsb'_xor.trans BitVec.xor_zero
theorem f16Sig_flip (h : F16) : f16Sig (h ^^^ 0x8000#16) = f16Sig h := BitVec.extractLsb'_xor.trans BitVec.xor_zero

theorem joinF16_flip (s : BitVec 1) (E : BitVec 5) (m : BitVec 10) :
    joinF16 (s ^^^ 1#1) E m = joinF16 s E m ^^^ 0x8000#16 := by
  rw [← joinF16_fields (joinF16 s E m ^^^ 0x8000#16), f16Sign_flip, f16Exp_flip, f16Sig_flip, f16Sign_joinF16,
    f16Exp_joinF16, f16Sig_joinF16]

/-- Each form of PACK's result has the operand's sign, and nothing else of it depends on the sign. -/
theorem PACK_flip (fb : F32) : PACK (fb ^^^ 0x80000000#32) = PACK fb ^^^ 0x8000#16 := by
  rw [← packDirect_eq_PACK, ← packDirect_eq_PACK]
  simp only [packDirect, f32Sign_flip, f32Exp_flip, f32Sig_flip]
  split_ifs <;> exact joinF16_flip _ _ _

theorem inUnpackRange_flip (fb : F32) : inUnpackRange (fb ^^^ 0x80000000#32) = inUnpackRange fb := by
  simp only [inUnpackRange, f32Exp_flip, f32Sig_flip]

/-- The flipped result of UNPACK is a result of UNPACK, and PACK says of which operand. -/
theorem UNPACK_flip (h : F16) : UNPACK (h ^^^ 0x8000#16) = UNPACK h ^^^ 0x80000000#32 := by
  have hrange : inUnpackRange (UNPACK h ^^^ 0x80000000#32) = true := by
    rw [inUnpackRange_flip, inUnpackRange_UNPACK]
  rw [← (roundTrip_eq_self_iff _).2 hrange, PACK_flip, PACK_UNPACK]

/-- Settles O43: both results flip with the operand's sign. -/
theorem signSymmetry : Obligations.SignSymmetry := by
  unfold Obligations.SignSymmetry
  constructor
  · intro fb s t ht
    cases ht
    rw [exec_pack, PACK_flip]
    rfl
  · intro h s t ht
    cases ht
    rw [exec_unpack, UNPACK_flip]
    rfl

end Sys2Proof.Proofs
end

section
/-! PROOFS. The families 20_memory.md, 41_pack.md, 42_unpack.md, 43_codec_laws.md and 60_exceptions.md: the results by the
class of the operand, and the table reads. -/

namespace Sys2Proof.Proofs

open Sys2Proof.Machine

/-! ### The class and the top bits of a result -/

/-- The exponent field and the significand of UNPACK's result, by those of the operand. -/
theorem UNPACK_field_cases (h : F16) :
    ((f16Exp h).toNat = 0 ∧ (f16Sig h).toNat = 0 ∧ (f32Exp (UNPACK h)).toNat = 0 ∧ (f32Sig (UNPACK h)).toNat = 0) ∨
    ((f16Exp h).toNat = 0 ∧ 1 ≤ (f16Sig h).toNat ∧ 103 ≤ (f32Exp (UNPACK h)).toNat ∧ (f32Exp (UNPACK h)).toNat ≤ 112) ∨
    ((1 ≤ (f16Exp h).toNat ∧ (f16Exp h).toNat ≤ 30) ∧ (f32Exp (UNPACK h)).toNat = (f16Exp h).toNat + 112 ∧
      (f32Sig (UNPACK h)).toNat = (f16Sig h).toNat * 2 ^ 13) ∨
    ((f16Exp h).toNat = 31 ∧ (f32Exp (UNPACK h)).toNat = 255 ∧
      (f32Sig (UNPACK h)).toNat = (f16Sig h).toNat * 2 ^ 13) := by
  obtain ⟨hE, hm⟩ | ⟨hE, hm⟩ | ⟨hlo, hhi⟩ | hE := f16_field_cases h
  · exact .inl ⟨hE, hm, UNPACK_fields_zero hE hm⟩
  · have hlog := log2_sig_le_nine _ hm
    obtain ⟨hexp, -⟩ := UNPACK_fields_subnormal hE hm
    exact .inr (.inl ⟨hE, hm, by omega, by omega⟩)
  · exact .inr (.inr (.inl ⟨⟨hlo, hhi⟩, UNPACK_fields_normal hlo hhi⟩))
  · exact .inr (.inr (.inr ⟨hE, UNPACK_fields_max hE⟩))

theorem class32_UNPACK_eq_zero_iff (h : F16) : class32 (UNPACK h) = .zero ↔ class16 h = .zero := by
  have hcases := UNPACK_field_cases h
  rw [class32_eq_zero_iff, class16_eq_zero_iff]
  omega

theorem class32_UNPACK_eq_infinity_iff (h : F16) : class32 (UNPACK h) = .infinity ↔ class16 h = .infinity := by
  have hcases := UNPACK_field_cases h
  rw [class32_eq_infinity_iff, class16_eq_infinity_iff]
  omega

theorem class32_UNPACK_eq_nan_iff (h : F16) : class32 (UNPACK h) = .nan ↔ class16 h = .nan := by
  have hcases := UNPACK_field_cases h
  rw [class32_eq_nan_iff, class16_eq_nan_iff]
  omega

/-- A subnormal's result is normal: binary32 has the exponent for it (42_unpack.md R128). -/
theorem class32_UNPACK_of_subnormal {h : F16} (hc : class16 h = .subnormal) : class32 (UNPACK h) = .normal := by
  have hcases := UNPACK_field_cases h
  rw [class16_eq_subnormal_iff] at hc
  rw [class32_eq_normal_iff]
  omega

/-- Bit 22 is the top bit of the significand. -/
theorem getLsbD_22_eq (fb : F32) : fb.getLsbD 22 = (f32Sig fb).getLsbD 22 := by
  simp [f32Sig]

/-- Bit 9 is the top bit of the significand. -/
theorem getLsbD_9_eq (h : F16) : h.getLsbD 9 = (f16Sig h).getLsbD 9 := by
  simp [f16Sig]

/-- The top significand bit, which IEEE 754 uses to mark a quiet NaN, comes through UNPACK (42_unpack.md R130). -/
theorem UNPACK_getLsbD_22 {h : F16} (hE : (f16Exp h).toNat = 31) : (UNPACK h).getLsbD 22 = h.getLsbD 9 := by
  rw [getLsbD_22_eq, getLsbD_9_eq, UNPACK_max hE, f32Sig_joinF32]
  exact BitVec.getLsbD_append

/-- The top significand bit comes through PACK (41_pack.md R109). -/
theorem PACK_getLsbD_9 {fb : F32} (hE : (f32Exp fb).toNat = 255) : (PACK fb).getLsbD 9 = fb.getLsbD 22 := by
  rw [getLsbD_22_eq, getLsbD_9_eq, PACK_max hE, f16Sig_joinF16]
  simp

/-! ### UNPACK by the class of its operand -/

/-- A subnormal's result without its sign is the element of `MANT` at its significand (42_unpack.md R128). -/
theorem UNPACK_subnormal_eq_MANT {h : F16} (hE : (f16Exp h).toNat = 0) :
    (UNPACK h).extractLsb' 0 31 = (MANT (mantIndex h)).extractLsb' 0 31 := by
  apply BitVec.eq_of_toNat_eq
  rw [BitVec.extractLsb'_toNat, BitVec.extractLsb'_toNat, Nat.shiftRight_zero, Nat.shiftRight_zero, UNPACK_toNat,
    EXPT_unpackIndex_toNat, hE, exptField_zero]
  omega

theorem UNPACK_infinity {h : F16} (hc : class16 h = .infinity) : UNPACK h = joinF32 (f16Sign h) 255#8 0#23 := by
  obtain ⟨hE, hm⟩ := class16_eq_infinity_iff.1 hc
  have hsig : f16Sig h ++ 0#13 = 0#23 := by
    apply BitVec.eq_of_toNat_eq
    rw [append_zeros_toNat, hm]
    rfl
  rw [UNPACK_max hE, hsig]

/-- Settles O35: one form of the result for each class. -/
theorem unpackByOperandClass : Obligations.UnpackByOperandClass := by
  unfold Obligations.UnpackByOperandClass
  intro h s
  have hcases := UNPACK_field_cases h
  refine ⟨_, exec_unpack h s, fun hc => ?zero, fun hc => ?subnormal, fun hc => ?normal, UNPACK_infinity, fun hc => ?nan⟩
  case zero =>
    obtain ⟨hE, hm⟩ := class16_eq_zero_iff.1 hc
    exact UNPACK_zero hE hm
  case subnormal =>
    have hnormal := class32_UNPACK_of_subnormal hc
    obtain ⟨hE, hm⟩ := class16_eq_subnormal_iff.1 hc
    rw [State.onF16_f32Out]
    exact ⟨⟨mantIndex h, mantIndex_lower hE, UNPACK_subnormal_eq_MANT hE⟩, f32Sign_UNPACK h, hnormal, by omega, by omega⟩
  case normal =>
    obtain ⟨hzero, hmax⟩ := class16_eq_normal_iff.1 hc
    exact UNPACK_normal (by omega) (by omega)
  case nan =>
    obtain ⟨hE, hm⟩ := class16_eq_nan_iff.1 hc
    exact ⟨UNPACK_max hE, (class32_UNPACK_eq_nan_iff h).2 hc, UNPACK_getLsbD_22 hE⟩

/-! ### NaNs -/

/-- Whether any of the upper ten significand bits is set, as a number. -/
theorem extract_upper_eq_zero_iff (m : BitVec 23) : m.extractLsb' 13 10 = 0#10 ↔ m.toNat / 2 ^ 13 = 0 := by
  rw [← BitVec.toNat_inj, extract_upper_toNat]
  rfl

theorem f16Exp_PACK_max {fb : F32} (hE : (f32Exp fb).toNat = 255) : (f16Exp (PACK fb)).toNat = 31 := by
  rw [PACK_max hE, f16Exp_joinF16]
  rfl

theorem f16Sig_PACK_max {fb : F32} (hE : (f32Exp fb).toNat = 255) :
    (f16Sig (PACK fb)).toNat = (f32Sig fb).toNat / 2 ^ 13 := by
  rw [PACK_max hE, f16Sig_joinF16, extract_upper_toNat]

/-- Settles O29: a NaN's result has its upper ten significand bits; UNPACK gives an operand for each binary16 NaN. -/
theorem packPassesNaNBitsThrough : Obligations.PackPassesNaNBitsThrough := by
  unfold Obligations.PackPassesNaNBitsThrough
  refine ⟨fun fb s hc => ?_, fun h hc => ⟨UNPACK h, (class32_UNPACK_eq_nan_iff h).2 hc, PACK_UNPACK h⟩⟩
  obtain ⟨hE, hm⟩ := class32_eq_nan_iff.1 hc
  have hexp := f16Exp_PACK_max hE
  have hsig := f16Sig_PACK_max hE
  refine ⟨by rw [exec_pack, PACK_max hE], ?_, ?_, PACK_getLsbD_9 hE⟩
  · rw [class16_eq_infinity_iff]
    omega
  · rw [class16_eq_nan_iff, (extract_upper_eq_zero_iff _).ne]
    omega

/-- Settles O46: the round trip of a NaN clears its low 13 bits, after which it is a NaN or an infinity. -/
theorem roundTripOfNaNs : Obligations.RoundTripOfNaNs := by
  unfold Obligations.RoundTripOfNaNs
  intro fb hc
  obtain ⟨hE, hm⟩ := class32_eq_nan_iff.1 hc
  rw [(extract_upper_eq_zero_iff _).ne, extract_upper_eq_zero_iff]
  constructor
  · intro hupper
    refine ⟨roundTrip_max hE, ?_⟩
    rw [class32_UNPACK_eq_nan_iff, class16_eq_nan_iff, f16Sig_PACK_max hE]
    exact ⟨f16Exp_PACK_max hE, hupper⟩
  · intro hupper
    rw [roundTrip_max hE]
    refine (joinF32_eq_clearLow (E := 255#8) (by decide) hE.symm ?_).symm
    rw [hupper]
    rfl

/-! ### Events -/

/-- An operand is inexact when the round trip does not give it back (60_exceptions.md R161, 43_codec_laws.md R141). -/
theorem packHas_inexact_iff (fb : F32) : packHas fb .inexact = true ↔ UNPACK (PACK fb) ≠ fb := by
  rw [packHas, Bool.not_eq_true', ← Bool.not_eq_true, ← roundTrip_eq_self_iff]

/-- Settles O47: each event but inexact is a range of exponent fields or a class of NaNs; inexact is what the round trip
changes. -/
theorem whatTheBlockDeliversForEachEvent : Obligations.WhatTheBlockDeliversForEachEvent := by
  unfold Obligations.WhatTheBlockDeliversForEachEvent
  simp only [Event.belongsTo, packHas, unpackHas, isSignalling32, isSignalling16, decide_eq_true_eq]
  constructor
  · intro fb s
    refine ⟨_, exec_pack fb s, fun ⟨hlo, hhi⟩ => PACK_overflow hlo hhi, fun ⟨hE, _⟩ => PACK_zero hE,
      packHas_inexact_iff fb, ?_, fun hE => ?_⟩
    · rintro ⟨hc, hquiet⟩
      obtain ⟨hE, -⟩ := class32_eq_nan_iff.1 hc
      exact ⟨PACK_max hE, (PACK_getLsbD_9 hE).trans hquiet⟩
    · exact PACK_zero (by rw [hE]; decide)
  · intro h s
    refine ⟨_, exec_unpack h s, ?_, fun hc => class32_UNPACK_of_subnormal hc⟩
    rintro ⟨hc, hquiet⟩
    obtain ⟨hE, -⟩ := class16_eq_nan_iff.1 hc
    exact ⟨UNPACK_max hE, (class32_UNPACK_eq_nan_iff h).2 hc, (UNPACK_getLsbD_22 hE).trans hquiet⟩

/-! ### The table reads -/

theorem mantIndex_le_1023_iff (h : F16) : (mantIndex h).val ≤ 1023 ↔ f16Exp h = 0#5 := by
  have hm := (f16Sig h).isLt
  have hzero : f16Exp h = 0#5 ↔ (f16Exp h).toNat = 0 := by rw [← BitVec.toNat_inj]; rfl
  rw [hzero]
  by_cases hE : (f16Exp h).toNat = 0
  · have hindex := mantIndex_lower hE
    omega
  · have hindex := mantIndex_upper hE
    omega

/-- Every selector of PACK is that of a word. -/
theorem packIndex_surjective : Function.Surjective packIndex := by
  intro k
  refine ⟨joinF32 (BitVec.ofNat 1 (k.val / 256)) (BitVec.ofNat 8 (k.val % 256)) 0#23, Fin.ext ?_⟩
  rw [packIndex_val, f32Sign_joinF32, f32Exp_joinF32, BitVec.toNat_ofNat, BitVec.toNat_ofNat]
  omega

/-- Every selector of UNPACK is that of a word. -/
theorem unpackIndex_surjective : Function.Surjective unpackIndex := by
  intro k
  refine ⟨joinF16 (BitVec.ofNat 1 (k.val / 32)) (BitVec.ofNat 5 (k.val % 32)) 0#10, Fin.ext ?_⟩
  rw [unpackIndex_val, f16Sign_joinF16, f16Exp_joinF16, BitVec.toNat_ofNat, BitVec.toNat_ofNat]
  omega

/-- The lower half of `MANT` is read for exponent field 0, the upper half for any other. -/
theorem mantIndex_surjective : Function.Surjective mantIndex := by
  intro k
  rcases Nat.lt_or_ge k.val 1024 with hlow | hhigh
  · refine ⟨joinF16 0#1 0#5 (BitVec.ofNat 10 k.val), Fin.ext ?_⟩
    rw [mantIndex_lower (by rw [f16Exp_joinF16]; rfl), f16Sig_joinF16, BitVec.toNat_ofNat]
    omega
  · refine ⟨joinF16 0#1 1#5 (BitVec.ofNat 10 (k.val - 1024)), Fin.ext ?_⟩
    rw [mantIndex_upper (by rw [f16Exp_joinF16]; decide), f16Sig_joinF16, BitVec.toNat_ofNat]
    omega

/-- Settles O18: every index of every table is computed from some operand. -/
theorem everyTableElementIsReachable : Obligations.EveryTableElementIsReachable := by
  unfold Obligations.EveryTableElementIsReachable
  refine ⟨mantIndex_le_1023_iff, fun t k => ?_⟩
  cases t with
  | mant =>
    obtain ⟨h, rfl⟩ := mantIndex_surjective k
    exact ⟨.unpack h, by simp [tableReads]⟩
  | offs =>
    obtain ⟨h, rfl⟩ := unpackIndex_surjective k
    exact ⟨.unpack h, by simp [tableReads]⟩
  | expt =>
    obtain ⟨h, rfl⟩ := unpackIndex_surjective k
    exact ⟨.unpack h, by simp [tableReads]⟩
  | base =>
    obtain ⟨fb, rfl⟩ := packIndex_surjective k
    exact ⟨.pack fb, by simp [tableReads]⟩
  | shift =>
    obtain ⟨fb, rfl⟩ := packIndex_surjective k
    exact ⟨.pack fb, by simp [tableReads]⟩

end Sys2Proof.Proofs
end

section
/-! PROOFS. The value of a word as a whole number of units (00_scope.md R16, log 7), and the order of magnitudes. -/

namespace Sys2Proof.Proofs

open Sys2Proof.Machine

/-! ### Units -/

/-- A finite magnitude in units of the format's least subnormal, by exponent field and significand of `p` bits. -/
def units (p E m : Nat) : Nat := if E = 0 then m else (2 ^ p + m) * 2 ^ (E - 1)

theorem units_of_exp_zero (p m : Nat) : units p 0 m = m := if_pos rfl

theorem units_of_exp_pos {p E m : Nat} (hE : 1 ≤ E) : units p E m = (2 ^ p + m) * 2 ^ (E - 1) := if_neg (by omega)

/-- The two formulas of 00_scope.md R16 in one. -/
theorem finiteValue_eq_units (s E m bias p : Nat) :
    finiteValue s E m bias p = (-1) ^ s * ((units p E m : ℚ) * 2 ^ (1 - (bias : ℤ) - p)) := by
  have htwo : (2 : ℚ) ≠ 0 := two_ne_zero
  rcases Nat.eq_zero_or_pos E with rfl | hE
  · rw [finiteValue, if_pos rfl, units_of_exp_zero, zpow_sub₀ htwo (1 - (bias : ℤ)) p, zpow_natCast]
    ring
  · obtain ⟨n, rfl⟩ : ∃ n, E = n + 1 := ⟨E - 1, by omega⟩
    have hpow : (2 : ℚ) ^ (((n + 1 : ℕ) : ℤ) - bias) = 2 ^ n * (2 ^ p * 2 ^ (1 - (bias : ℤ) - p)) := by
      rw [← zpow_natCast 2 n, ← zpow_natCast 2 p, ← zpow_add₀ htwo, ← zpow_add₀ htwo]
      congr 1
      push_cast
      ring
    rw [finiteValue, if_neg (by omega), units_of_exp_pos hE, hpow, Nat.add_sub_cancel]
    push_cast
    field_simp

/-- Every magnitude of exponent field at most `n` is below `2 ^ (p + n)` units, and no other is. -/
theorem units_lt_two_pow_iff {p E m n : Nat} (hm : m < 2 ^ p) : units p E m < 2 ^ (p + n) ↔ E ≤ n := by
  rcases Nat.eq_zero_or_pos E with rfl | hE
  · rw [units_of_exp_zero]
    exact iff_of_true (hm.trans_le (Nat.pow_le_pow_right two_pos (Nat.le_add_right p n))) (Nat.zero_le n)
  · rw [units_of_exp_pos hE]
    constructor
    · intro hlt
      by_contra hnE
      have hle : 2 ^ (p + n) ≤ 2 ^ p * 2 ^ (E - 1) := by
        rw [← pow_add]
        exact Nat.pow_le_pow_right two_pos (by omega)
      exact absurd hlt (not_lt.2 (hle.trans (Nat.mul_le_mul_right _ (Nat.le_add_right _ _))))
    · intro hle
      calc (2 ^ p + m) * 2 ^ (E - 1) < (2 ^ p * 2) * 2 ^ (E - 1) :=
            Nat.mul_lt_mul_of_pos_right (by omega) (Nat.two_pow_pos _)
        _ = 2 ^ (p + E) := by rw [mul_assoc, ← pow_succ', Nat.sub_add_cancel hE, pow_add]
        _ ≤ 2 ^ (p + n) := Nat.pow_le_pow_right two_pos (by omega)

/-- A number of exponent field and significand that is not larger has no larger exponent field. -/
theorem exp_le_of_joined_le {p E m F n : Nat} (hn : n < 2 ^ p) (hle : E * 2 ^ p + m ≤ F * 2 ^ p + n) : E ≤ F := by
  have hmul : E * 2 ^ p < (F + 1) * 2 ^ p := by
    rw [add_mul, one_mul]
    omega
  exact Nat.le_of_lt_succ (Nat.lt_of_mul_lt_mul_right hmul)

/-- Exponent field and significand, read as one number, order the finite magnitudes. -/
theorem units_lt_of_lt {p E m F n : Nat} (hm : m < 2 ^ p) (hn : n < 2 ^ p) (hlt : E * 2 ^ p + m < F * 2 ^ p + n) :
    units p E m < units p F n := by
  rcases (exp_le_of_joined_le hn hlt.le).lt_or_eq with hEF | rfl
  · refine lt_of_lt_of_le ((units_lt_two_pow_iff hm).2 le_rfl) ?_
    by_contra hnot
    exact absurd ((units_lt_two_pow_iff hn).1 (not_le.1 hnot)) (by omega)
  · have hmn : m < n := by omega
    unfold units
    split
    · exact hmn
    · exact Nat.mul_lt_mul_of_pos_right (by omega) (Nat.two_pow_pos _)

theorem units_le_iff {p E m F n : Nat} (hm : m < 2 ^ p) (hn : n < 2 ^ p) :
    units p E m ≤ units p F n ↔ E * 2 ^ p + m ≤ F * 2 ^ p + n := by
  constructor
  · intro hle
    by_contra hnot
    exact absurd (units_lt_of_lt hn hm (not_le.1 hnot)) (not_lt.2 hle)
  · intro hle
    rcases hle.lt_or_eq with hlt | heq
    · exact (units_lt_of_lt hm hn hlt).le
    · obtain rfl : E = F := le_antisymm (exp_le_of_joined_le hn heq.le) (exp_le_of_joined_le hm heq.ge)
      rw [Nat.add_left_cancel heq]

/-! ### The values of the two formats -/

/-- The magnitude of a finite binary32 word in units of `2 ^ (-149)`. -/
def units32 (fb : F32) : Nat := units 23 (f32Exp fb).toNat (f32Sig fb).toNat

/-- The magnitude of a finite binary16 word in units of `2 ^ (-24)`. -/
def units16 (h : F16) : Nat := units 10 (f16Exp h).toNat (f16Sig h).toNat

theorem f32Exp_eq_max_iff (fb : F32) : f32Exp fb = 255#8 ↔ (f32Exp fb).toNat = 255 := by
  rw [← BitVec.toNat_inj]
  rfl

theorem f16Exp_eq_max_iff (h : F16) : f16Exp h = 31#5 ↔ (f16Exp h).toNat = 31 := by
  rw [← BitVec.toNat_inj]
  rfl

theorem value32_of_finite {fb : F32} (hE : (f32Exp fb).toNat ≠ 255) :
    value32 fb = some ((-1) ^ (f32Sign fb).toNat * ((units32 fb : ℚ) * 2 ^ (-149 : ℤ))) := by
  rw [value32, if_neg ((f32Exp_eq_max_iff fb).not.2 hE), finiteValue_eq_units]
  rfl

theorem value16_of_finite {h : F16} (hE : (f16Exp h).toNat ≠ 31) :
    value16 h = some ((-1) ^ (f16Sign h).toNat * ((units16 h : ℚ) * 2 ^ (-24 : ℤ))) := by
  rw [value16, if_neg ((f16Exp_eq_max_iff h).not.2 hE), finiteValue_eq_units]
  rfl

theorem exp_ne_max_of_value32 {fb : F32} {x : ℚ} (hx : value32 fb = some x) : (f32Exp fb).toNat ≠ 255 := by
  intro hE
  rw [value32, if_pos ((f32Exp_eq_max_iff fb).2 hE)] at hx
  cases hx

theorem exp_ne_max_of_value16 {h : F16} {y : ℚ} (hy : value16 h = some y) : (f16Exp h).toNat ≠ 31 := by
  intro hE
  rw [value16, if_pos ((f16Exp_eq_max_iff h).2 hE)] at hy
  cases hy

theorem abs_signed_units (s n : ℕ) (z : ℤ) : |(-1 : ℚ) ^ s * ((n : ℚ) * 2 ^ z)| = n * 2 ^ z := by
  rw [abs_mul, abs_pow, abs_neg, abs_one, one_pow, one_mul, abs_of_nonneg (by positivity)]

theorem abs_value32 {fb : F32} {x : ℚ} (hx : value32 fb = some x) : |x| = units32 fb * 2 ^ (-149 : ℤ) := by
  rw [value32_of_finite (exp_ne_max_of_value32 hx), Option.some.injEq] at hx
  rw [← hx, abs_signed_units]

theorem abs_value16 {h : F16} {y : ℚ} (hy : value16 h = some y) : |y| = units16 h * 2 ^ (-24 : ℤ) := by
  rw [value16_of_finite (exp_ne_max_of_value16 hy), Option.some.injEq] at hy
  rw [← hy, abs_signed_units]

/-! ### The order of magnitudes -/

/-- A binary32 word without its sign, as a number. -/
def magnitude32 (fb : F32) : Nat := (f32Exp fb).toNat * 2 ^ 23 + (f32Sig fb).toNat

/-- A binary16 word without its sign, as a number. -/
def magnitude16 (h : F16) : Nat := (f16Exp h).toNat * 2 ^ 10 + (f16Sig h).toNat

theorem magnitude32_eq (fb : F32) : magnitude32 fb = (fb.extractLsb' 0 31).toNat := by
  rw [magnitude32, f32Exp_toNat, f32Sig_toNat, BitVec.extractLsb'_toNat, Nat.shiftRight_zero]
  omega

/-- A finite word has a larger magnitude exactly when it is larger as a number without its sign. -/
theorem abs_value32_le_iff {a b : F32} {x y : ℚ} (hx : value32 a = some x) (hy : value32 b = some y) :
    |x| ≤ |y| ↔ magnitude32 a ≤ magnitude32 b := by
  rw [abs_value32 hx, abs_value32 hy, mul_le_mul_iff_left₀ (by positivity), Nat.cast_le]
  exact units_le_iff (f32Sig a).isLt (f32Sig b).isLt

theorem abs_value16_le_iff {g h : F16} {y z : ℚ} (hy : value16 g = some y) (hz : value16 h = some z) :
    |y| ≤ |z| ↔ magnitude16 g ≤ magnitude16 h := by
  rw [abs_value16 hy, abs_value16 hz, mul_le_mul_iff_left₀ (by positivity), Nat.cast_le]
  exact units_le_iff (f16Sig g).isLt (f16Sig h).isLt

/-- A power of two bounds the magnitudes of the exponent fields up to its own. -/
theorem abs_value32_lt_two_pow_iff {fb : F32} {x : ℚ} (hx : value32 fb = some x) (n : ℕ) :
    |x| < 2 ^ ((n : ℤ) - 126) ↔ (f32Exp fb).toNat ≤ n := by
  have hpow : (2 : ℚ) ^ ((n : ℤ) - 126) = ((2 ^ (23 + n) : ℕ) : ℚ) * 2 ^ (-149 : ℤ) := by
    rw [Nat.cast_pow, Nat.cast_ofNat, ← zpow_natCast, ← zpow_add₀ two_ne_zero]
    congr 1
    push_cast
    ring
  rw [abs_value32 hx, hpow, mul_lt_mul_iff_left₀ (by positivity), Nat.cast_lt]
  exact units_lt_two_pow_iff (f32Sig fb).isLt

theorem abs_lt_two_pow_neg_24_iff {fb : F32} {x : ℚ} (hx : value32 fb = some x) :
    |x| < 2 ^ (-24 : ℤ) ↔ (f32Exp fb).toNat ≤ 102 :=
  abs_value32_lt_two_pow_iff hx 102

theorem abs_lt_two_pow_neg_14_iff {fb : F32} {x : ℚ} (hx : value32 fb = some x) :
    |x| < 2 ^ (-14 : ℤ) ↔ (f32Exp fb).toNat ≤ 112 :=
  abs_value32_lt_two_pow_iff hx 112

theorem abs_lt_65536_iff {fb : F32} {x : ℚ} (hx : value32 fb = some x) : |x| < 65536 ↔ (f32Exp fb).toNat ≤ 142 := by
  have hpow : (2 : ℚ) ^ (((142 : ℕ) : ℤ) - 126) = 65536 := by norm_num
  rw [← abs_value32_lt_two_pow_iff hx 142, hpow]

/-- The word of 65504, the largest finite binary16 value. -/
theorem value32_65504 : value32 0x477FE000#32 = some 65504 := by
  decide +kernel

theorem magnitude32_65504 : magnitude32 0x477FE000#32 = 0x477FE000 := rfl

theorem le_65504_iff {fb : F32} {x : ℚ} (hx : value32 fb = some x) : 65504 ≤ |x| ↔ 0x477FE000 ≤ magnitude32 fb := by
  have hle := abs_value32_le_iff value32_65504 hx
  rwa [abs_of_pos (by norm_num), magnitude32_65504] at hle

theorem lt_65504_iff {fb : F32} {x : ℚ} (hx : value32 fb = some x) : 65504 < |x| ↔ 0x477FE000 < magnitude32 fb := by
  have hle := abs_value32_le_iff hx value32_65504
  rw [abs_of_pos (show (0 : ℚ) < 65504 by norm_num), magnitude32_65504] at hle
  rw [← not_le, hle, not_le]

end Sys2Proof.Proofs
end

section
/-! PROOFS. The families 41_pack.md and 42_unpack.md: the value of a result against that of its operand. -/

namespace Sys2Proof.Proofs

open Sys2Proof.Machine

/-! ### UNPACK is exact -/

/-- A unit of binary16 is `2 ^ 125` units of binary32; UNPACK changes the unit and nothing else. -/
theorem units32_UNPACK {h : F16} (hE : (f16Exp h).toNat ≠ 31) : units32 (UNPACK h) = units16 h * 2 ^ 125 := by
  obtain ⟨hzero, hm⟩ | ⟨hzero, hm⟩ | ⟨hlo, hhi⟩ | hmax := f16_field_cases h
  · obtain ⟨hexp, hsig⟩ := UNPACK_fields_zero hzero hm
    rw [units32, units16, hexp, hsig, hzero, hm]
    rfl
  · have hlog := log2_sig_le_nine _ hm
    obtain ⟨hexp, hsig⟩ := UNPACK_fields_subnormal hzero hm
    have hplace : 23 - (f16Sig h).toNat.log2 + (103 + (f16Sig h).toNat.log2 - 1) = 125 := by omega
    rw [units32, units16, hexp, hsig, units_of_exp_pos (by omega), ← mul_two_pow_eq_leftAligned hm (by omega), hzero,
      units_of_exp_zero, mul_assoc, ← pow_add, hplace]
  · obtain ⟨hexp, hsig⟩ := UNPACK_fields_normal hlo hhi
    have hplace : (f16Exp h).toNat + 112 - 1 = (f16Exp h).toNat - 1 + 112 := by omega
    rw [units32, units16, hexp, hsig, units_of_exp_pos (by omega), units_of_exp_pos hlo, hplace, pow_add]
    ring
  · exact absurd hmax hE

/-- The result of UNPACK is finite when the operand is. -/
theorem f32Exp_UNPACK_ne_max {h : F16} (hE : (f16Exp h).toNat ≠ 31) : (f32Exp (UNPACK h)).toNat ≠ 255 := by
  have hcases := UNPACK_field_cases h
  omega

theorem value32_UNPACK {h : F16} (hE : (f16Exp h).toNat ≠ 31) : value32 (UNPACK h) = value16 h := by
  have hunit : ((2 : ℚ) ^ 125) * 2 ^ (-149 : ℤ) = 2 ^ (-24 : ℤ) := by norm_num
  rw [value32_of_finite (f32Exp_UNPACK_ne_max hE), value16_of_finite hE, f32Sign_UNPACK, units32_UNPACK hE, Nat.cast_mul,
    Nat.cast_pow, Nat.cast_ofNat, mul_assoc (units16 h : ℚ), hunit]

/-- An infinity has no value, and neither has UNPACK's result. -/
theorem value32_UNPACK_max {h : F16} (hE : (f16Exp h).toNat = 31) : value32 (UNPACK h) = value16 h := by
  have hmax : (f32Exp (UNPACK h)).toNat = 255 := by
    have hcases := UNPACK_field_cases h
    omega
  rw [value32, if_pos ((f32Exp_eq_max_iff _).2 hmax), value16, if_pos ((f16Exp_eq_max_iff h).2 hE)]

/-- Settles O34: the value and the sign come through, and the class of a zero and of an infinity. -/
theorem unpackIsExact : Obligations.UnpackIsExact := by
  unfold Obligations.UnpackIsExact
  intro h s _
  refine ⟨_, exec_unpack h s, ?_, f32Sign_UNPACK h, class32_UNPACK_eq_infinity_iff h, class32_UNPACK_eq_zero_iff h⟩
  by_cases hE : (f16Exp h).toNat = 31
  · exact value32_UNPACK_max hE
  · exact value32_UNPACK hE

/-! ### PACK underflows, overflows, and meets the top of the finite range -/

/-- Settles O23: the exponent fields up to 102. -/
theorem packUnderflowsToTheSignedZero : Obligations.PackUnderflowsToTheSignedZero := by
  unfold Obligations.PackUnderflowsToTheSignedZero
  intro fb x s hx
  have hiff := abs_lt_two_pow_neg_24_iff hx
  exact ⟨hiff, fun hlt => by rw [exec_pack, PACK_zero (hiff.1 hlt)]⟩

/-- Settles O28: the exponent fields from 143, that of infinities and NaNs left out. -/
theorem packSaturatesToInfinity : Obligations.PackSaturatesToInfinity := by
  unfold Obligations.PackSaturatesToInfinity
  intro fb x s hx
  have hlt := (f32Exp fb).isLt
  have hmax := exp_ne_max_of_value32 hx
  have hiff : 65536 ≤ |x| ↔ 143 ≤ (f32Exp fb).toNat ∧ (f32Exp fb).toNat ≤ 254 := by
    rw [← not_lt, abs_lt_65536_iff hx]
    omega
  exact ⟨hiff, fun hle => by rw [exec_pack, PACK_overflow (hiff.1 hle).1 (hiff.1 hle).2]⟩

/-- Settles O27: the words of exponent field 142 with the upper ten significand bits all ones. -/
theorem packTopOfTheFiniteRange : Obligations.PackTopOfTheFiniteRange := by
  unfold Obligations.PackTopOfTheFiniteRange
  intro fb s
  have hm := (f32Sig fb).isLt
  rw [← magnitude32_eq]
  refine ⟨⟨?_, ?_⟩, ?_⟩
  · rintro ⟨x, hx, hlo, hhi⟩
    have hE := (abs_lt_65536_iff hx).1 hhi
    exact ⟨(le_65504_iff hx).1 hlo, by unfold magnitude32; omega⟩
  · rintro ⟨hlo, hhi⟩
    have hE : (f32Exp fb).toNat ≤ 142 := by unfold magnitude32 at hhi; omega
    have hx := value32_of_finite (fb := fb) (by omega)
    exact ⟨_, hx, (le_65504_iff hx).2 hlo, (abs_lt_65536_iff hx).2 hE⟩
  · intro hlo hhi
    unfold magnitude32 at hlo hhi
    have hE : (f32Exp fb).toNat = 142 := by omega
    have hsig : (f32Sig fb).extractLsb' 13 10 = 1023#10 := by
      apply BitVec.eq_of_toNat_eq
      rw [extract_upper_toNat, BitVec.toNat_ofNat]
      omega
    rw [exec_pack, PACK_normal (by omega) (by omega), hsig, hE]

/-! ### PACK rounds toward zero -/

theorem magnitude16_PACK (fb : F32) : magnitude16 (PACK fb) = packMagnitude (f32Exp fb).toNat (f32Sig fb).toNat := by
  have hmag := packMagnitude_lt (E := (f32Exp fb).toNat) (f32Sig fb).isLt
  rw [magnitude16, f16Exp_toNat, f16Sig_toNat, PACK_toNat, packSum_eq]
  omega

/-- PACK keeps the order of words without their signs. -/
theorem magnitude16_PACK_mono {a b : F32} (hab : magnitude32 a ≤ magnitude32 b) :
    magnitude16 (PACK a) ≤ magnitude16 (PACK b) := by
  rw [magnitude16_PACK, magnitude16_PACK]
  exact packMagnitude_mono (f32Sig a).isLt (f32Sig b).isLt (Nat.le_of_lt_succ (f32Exp b).isLt) hab

/-- A finite result comes from an exponent field of the binary16 range or below it. -/
theorem f32Exp_le_of_PACK_finite {fb : F32} (hE : (f16Exp (PACK fb)).toNat ≠ 31) : (f32Exp fb).toNat ≤ 142 := by
  obtain h | ⟨-, h⟩ | ⟨-, h⟩ | ⟨hlo, hhi⟩ | hmax := f32Exp_cases fb
  · omega
  · omega
  · exact h
  · rw [PACK_overflow hlo hhi, f16Exp_joinF16] at hE
    exact absurd rfl hE
  · exact absurd (f16Exp_PACK_max hmax) hE

theorem PACK_finite {fb : F32} (hE : (f32Exp fb).toNat ≤ 142) : (f16Exp (PACK fb)).toNat ≠ 31 := by
  obtain h | ⟨hlo, hhi⟩ | ⟨hlo, hhi⟩ | ⟨h, -⟩ | h := f32Exp_cases fb
  · rw [PACK_zero h, f16Exp_joinF16]
    decide
  · rw [PACK_subnormal hlo hhi, f16Exp_joinF16]
    decide
  · rw [PACK_normal hlo hhi, f16Exp_joinF16, BitVec.toNat_ofNat]
    omega
  · omega
  · omega

theorem magnitude32_clearLow_le {k : Nat} (hk : k ≤ 23) (fb : F32) : magnitude32 (clearLow k fb) ≤ magnitude32 fb := by
  rw [magnitude32, magnitude32, f32Exp_clearLow hk, f32Sig_clearLow_toNat hk]
  exact Nat.add_le_add_left (Nat.div_mul_le_self _ _) _

/-- Below the overflow range the round trip only clears bits. -/
theorem magnitude32_roundTrip_le {fb : F32} (hE : (f32Exp fb).toNat ≤ 142) :
    magnitude32 (UNPACK (PACK fb)) ≤ magnitude32 fb := by
  obtain h | ⟨hlo, hhi⟩ | ⟨hlo, hhi⟩ | ⟨h, -⟩ | h := f32Exp_cases fb
  · rw [roundTrip_zero h, magnitude32, f32Exp_joinF32, f32Sig_joinF32]
    exact Nat.zero_le _
  · rw [roundTrip_subnormal hlo hhi]
    exact magnitude32_clearLow_le (by omega) fb
  · rw [roundTrip_normal hlo hhi]
    exact magnitude32_clearLow_le (by decide) fb
  · omega
  · omega

/-- A finite result is no larger than its operand (43_codec_laws.md R149): as a binary32 word it is the round trip, which
only clears bits. -/
theorem abs_PACK_le {fb : F32} {x y : ℚ} (hx : value32 fb = some x) (hy : value16 (PACK fb) = some y) : |y| ≤ |x| := by
  have hfinite := exp_ne_max_of_value16 hy
  rw [← value32_UNPACK hfinite] at hy
  exact (abs_value32_le_iff hy hx).2 (magnitude32_roundTrip_le (f32Exp_le_of_PACK_finite hfinite))

/-- A binary16 magnitude not above the operand is not above the result: as a binary32 word it is not above the operand, and
PACK keeps the order and gives it back. -/
theorem abs_le_abs_PACK {fb : F32} {x y z : ℚ} {h : F16} (hx : value32 fb = some x) (hy : value16 (PACK fb) = some y)
    (hz : value16 h = some z) (hzx : |z| ≤ |x|) : |z| ≤ |y| := by
  have hz32 : value32 (UNPACK h) = some z := by rw [value32_UNPACK (exp_ne_max_of_value16 hz), hz]
  have hmag := magnitude16_PACK_mono ((abs_value32_le_iff hz32 hx).1 hzx)
  rw [PACK_UNPACK] at hmag
  exact (abs_value16_le_iff hz hy).2 hmag

/-- Settles O25: the sign is copied, and a finite result is the operand with bits cleared. -/
theorem packNeverGrowsAFiniteMagnitude : Obligations.PackNeverGrowsAFiniteMagnitude := by
  unfold Obligations.PackNeverGrowsAFiniteMagnitude
  exact ⟨f16Sign_PACK, fun _ _ _ => abs_PACK_le⟩

/-- Settles O24: the result is at most the operand, and at least every binary16 magnitude that is. -/
theorem packRoundsTowardZero : Obligations.PackRoundsTowardZero := by
  unfold Obligations.PackRoundsTowardZero
  intro fb x s hx _ hhi
  have hy := value16_of_finite (PACK_finite ((abs_lt_65536_iff hx).1 hhi))
  exact ⟨_, _, exec_pack fb s, hy, f16Sign_PACK fb, abs_PACK_le hx hy, fun _ _ hz => abs_le_abs_PACK hx hy hz⟩

/-- In the subnormal range the shifted significand is the magnitude in units of `2 ^ (-24)`, rounded down. -/
theorem floor_abs_subnormal {fb : F32} {x : ℚ} (hx : value32 fb = some x) (hlo : 103 ≤ (f32Exp fb).toNat)
    (hhi : (f32Exp fb).toNat ≤ 112) :
    ⌊|x| * 2 ^ 24⌋ = (((2 ^ 23 + (f32Sig fb).toNat) / 2 ^ (126 - (f32Exp fb).toNat) : ℕ) : ℤ) := by
  have hpow : (2 : ℚ) ^ ((f32Exp fb).toNat - 1) * 2 ^ (126 - (f32Exp fb).toNat) = 2 ^ 125 := by
    rw [← pow_add]
    congr 1
    omega
  have habs : |x| * 2 ^ 24 = ((2 ^ 23 + (f32Sig fb).toNat : ℕ) : ℚ) / ((2 ^ (126 - (f32Exp fb).toNat) : ℕ) : ℚ) := by
    rw [abs_value32 hx, units32, units_of_exp_pos (by omega), eq_div_iff (by positivity), Nat.cast_mul, Nat.cast_pow,
      Nat.cast_pow, Nat.cast_ofNat]
    calc _ = ((2 ^ 23 + (f32Sig fb).toNat : ℕ) : ℚ) *
          (2 ^ ((f32Exp fb).toNat - 1) * 2 ^ (126 - (f32Exp fb).toNat)) * (2 ^ (-149 : ℤ) * 2 ^ 24) := by ring
      _ = _ := by rw [hpow, mul_assoc]; norm_num
  rw [habs, Rat.floor_natCast_div_natCast]
  rfl

/-- Settles O26: the significand is the operand's with its leading one, shifted right. -/
theorem packSubnormalResults : Obligations.PackSubnormalResults := by
  unfold Obligations.PackSubnormalResults
  intro fb x s hx hlo hhi
  have hE103 : 103 ≤ (f32Exp fb).toNat := by
    have hnot := (abs_lt_two_pow_neg_24_iff hx).not.1 (not_lt.2 hlo)
    omega
  have hE112 := (abs_lt_two_pow_neg_14_iff hx).1 hhi
  have hlt := subnormal_sig_lt hE112 (f32Sig fb).isLt
  have hpos : 1 ≤ (2 ^ 23 + (f32Sig fb).toNat) / 2 ^ (126 - (f32Exp fb).toNat) := by
    rw [leading_one_div _ (by omega)]
    exact Nat.le_add_right_of_le Nat.one_le_two_pow
  have hsig : (f16Sig (PACK fb)).toNat = (2 ^ 23 + (f32Sig fb).toNat) / 2 ^ (126 - (f32Exp fb).toNat) := by
    rw [PACK_subnormal hE103 hE112, f16Sig_joinF16, BitVec.toNat_ofNat, Nat.mod_eq_of_lt hlt]
  refine ⟨_, exec_pack fb s, f16Sign_PACK fb, ?_⟩
  rw [State.onF32_f16Out, hsig, floor_abs_subnormal hx hE103 hE112]
  exact ⟨by rw [PACK_subnormal hE103 hE112, f16Exp_joinF16], rfl, hpos, Nat.le_of_lt_succ hlt⟩

end Sys2Proof.Proofs
end

section
/-! PROOFS. The family 43_codec_laws.md: what the round trip loses. -/

namespace Sys2Proof.Proofs

open Sys2Proof.Machine

/-- Clearing bits of the significand takes away what they are worth. -/
theorem units32_clearLow_add {k : Nat} {fb : F32} (hk : k ≤ 23) (hE : 1 ≤ (f32Exp fb).toNat) :
    units32 (clearLow k fb) + (f32Sig fb).toNat % 2 ^ k * 2 ^ ((f32Exp fb).toNat - 1) = units32 fb := by
  rw [units32, units32, f32Exp_clearLow hk, f32Sig_clearLow_toNat hk, units_of_exp_pos hE, units_of_exp_pos hE, ← add_mul,
    add_assoc, Nat.div_add_mod']

/-- Clearing the low `k` significand bits loses less than one unit of bit `k`. -/
theorem abs_sub_clearLow {k : Nat} {fb : F32} {x : ℚ} (hx : value32 fb = some x) (hk : k ≤ 23)
    (hE : 1 ≤ (f32Exp fb).toNat) :
    ∃ y : ℚ, value32 (clearLow k fb) = some y ∧ |y| ≤ |x| ∧ |x - y| < 2 ^ ((k : ℤ) + (f32Exp fb).toNat - 150) := by
  have hmax := exp_ne_max_of_value32 hx
  have hy := value32_of_finite (fb := clearLow k fb) (by rwa [f32Exp_clearLow hk])
  refine ⟨_, hy, (abs_value32_le_iff hy hx).2 (magnitude32_clearLow_le hk fb), ?_⟩
  have hlost : ((f32Sig fb).toNat % 2 ^ k : ℕ) < ((2 ^ k : ℕ) : ℚ) := by exact_mod_cast Nat.mod_lt _ (Nat.two_pow_pos k)
  have hdiff : x - (-1) ^ (f32Sign (clearLow k fb)).toNat * ((units32 (clearLow k fb) : ℚ) * 2 ^ (-149 : ℤ)) =
      (-1) ^ (f32Sign fb).toNat *
        ((((f32Sig fb).toNat % 2 ^ k * 2 ^ ((f32Exp fb).toNat - 1) : ℕ) : ℚ) * 2 ^ (-149 : ℤ)) := by
    rw [value32_of_finite hmax, Option.some.injEq, ← units32_clearLow_add hk hE] at hx
    rw [← hx, f32Sign_clearLow hk]
    push_cast
    ring
  have hpow : (2 : ℚ) ^ ((k : ℤ) + (f32Exp fb).toNat - 150) =
      ((2 ^ k : ℕ) : ℚ) * (2 ^ ((f32Exp fb).toNat - 1) * 2 ^ (-149 : ℤ)) := by
    rw [Nat.cast_pow, Nat.cast_ofNat, ← zpow_natCast, ← zpow_natCast, ← zpow_add₀ two_ne_zero, ← zpow_add₀ two_ne_zero]
    congr 1
    push_cast [hE]
    ring
  rw [hdiff, abs_signed_units, hpow, Nat.cast_mul, Nat.cast_pow, Nat.cast_ofNat, mul_assoc]
  exact mul_lt_mul_of_pos_right hlost (by positivity)

/-- Settles O44: in the normal range the unit of bit 13 is `2 ^ (-10)` of the leading one; in the subnormal range the unit of
bit `126 - E` is `2 ^ (-24)`. -/
theorem roundTripTruncationError : Obligations.RoundTripTruncationError := by
  unfold Obligations.RoundTripTruncationError
  intro fb x hx
  have h14 := abs_lt_two_pow_neg_14_iff hx
  constructor
  · intro hlo hhi
    have hE113 : 113 ≤ (f32Exp fb).toNat := by
      have hnot := h14.not.1 (not_lt.2 hlo)
      omega
    have hrt := roundTrip_normal hE113 ((abs_lt_65536_iff hx).1 hhi)
    obtain ⟨y, hy, hle, herr⟩ := abs_sub_clearLow (k := 13) hx (by decide) (by omega)
    refine ⟨hrt.trans (clearLow_13 fb), y, hrt ▸ hy, hle, herr.trans_le ?_⟩
    have hlead : (2 : ℚ) ^ ((((f32Exp fb).toNat - 1 : ℕ) : ℤ) - 126) ≤ |x| :=
      not_lt.1 fun hlt => absurd ((abs_value32_lt_two_pow_iff hx _).1 hlt) (by omega)
    have hpow : (2 : ℚ) ^ (((13 : ℕ) : ℤ) + (f32Exp fb).toNat - 150) =
        2 ^ (-10 : ℤ) * 2 ^ ((((f32Exp fb).toNat - 1 : ℕ) : ℤ) - 126) := by
      rw [← zpow_add₀ two_ne_zero]
      congr 1
      omega
    rw [hpow]
    exact mul_le_mul_of_nonneg_left hlead (by positivity)
  · intro hlo hhi
    have hE112 := h14.1 hhi
    have hE103 : 103 ≤ (f32Exp fb).toNat := by
      have hnot := (abs_lt_two_pow_neg_24_iff hx).not.1 (not_lt.2 hlo)
      omega
    have hrt := roundTrip_subnormal hE103 hE112
    obtain ⟨y, hy, hle, herr⟩ := abs_sub_clearLow (k := 126 - (f32Exp fb).toNat) hx (by omega) (by omega)
    have hunit : ((126 - (f32Exp fb).toNat : ℕ) : ℤ) + (f32Exp fb).toNat - 150 = -24 := by omega
    rw [hunit] at herr
    exact ⟨hrt, y, hrt ▸ hy, hle, herr⟩

/-- Settles O45: below the range, above it, and past the largest finite value, which has the upper ten significand bits all
ones. -/
theorem roundTripOutOfRange : Obligations.RoundTripOutOfRange := by
  unfold Obligations.RoundTripOutOfRange
  intro fb x hx
  have hmax := exp_ne_max_of_value32 hx
  have hlt := (f32Exp fb).isLt
  have h65536 := abs_lt_65536_iff hx
  refine ⟨fun hsmall => roundTrip_zero ((abs_lt_two_pow_neg_24_iff hx).1 hsmall), fun hlarge => ?_, fun hlo hhi => ?_⟩
  · have hE := h65536.not.1 (not_lt.2 hlarge)
    exact roundTrip_overflow (by omega) (by omega)
  · have hE := h65536.1 hhi
    have hmag := (lt_65504_iff hx).1 hlo
    have hm := (f32Sig fb).isLt
    have hs := (f32Sign fb).isLt
    have hzero : f32Sign fb = 0#1 ↔ (f32Sign fb).toNat = 0 := by rw [← BitVec.toNat_inj]; rfl
    have hword := joinF32_toNat (f32Sign fb) (f32Exp fb) (f32Sig fb)
    rw [joinF32_fields] at hword
    unfold magnitude32 at hmag
    rw [roundTrip_normal (by omega) hE]
    apply BitVec.eq_of_toNat_eq
    rw [clearLow_toNat, hword, apply_ite BitVec.toNat, BitVec.toNat_ofNat, BitVec.toNat_ofNat]
    simp only [hzero]
    split <;> omega

end Sys2Proof.Proofs
end
